-- ==== Sys2Proof/Word.lean ====
section
/-!
DEFINITION. The value types of the core (spec/00_scope.md R8, R9; spec/10_state.md opening): bytes, byte registers,
the 32-bit bus word, the 4-byte column (the spec's `Word`) and the 4 × 4 byte matrix (the spec's `State`).

Every type is plain data. The matrix is written `st[c][r]` in the spec, column first (R9), and that is the order of the
fields here. The document's names `Word` and `State` are taken (a word is also the bus word, and the machine's whole
state is `Sys2Proof.Machine.State`), so they are called `Column` and `Matrix4` here.
-/

namespace Sys2Proof

/-- A byte: an 8-bit unsigned value, bit 0 the least significant (R8). -/
abbrev Byte := BitVec 8

/-- A register of `n` bytes, byte 0 first (R20, R21, R22). -/
abbrev Bytes (n : Nat) := Vector Byte n

/-- The bus word of 32 bits (R52). -/
abbrev BusWord := BitVec 32

/-- A column: the document's Word `[a0, a1, a2, a3]`, one byte for each row, row 0 first (R3, R9, R130). -/
@[ext]
structure Column where
  /-- Row 0. -/
  r0 : Byte
  /-- Row 1. -/
  r1 : Byte
  /-- Row 2. -/
  r2 : Byte
  /-- Row 3. -/
  r3 : Byte
  deriving DecidableEq, Repr, Inhabited

/-- The document's State, and a round key: a 4 × 4 matrix of bytes, column-major (R9). -/
@[ext]
structure Matrix4 where
  /-- Column 0. -/
  c0 : Column
  /-- Column 1. -/
  c1 : Column
  /-- Column 2. -/
  c2 : Column
  /-- Column 3. -/
  c3 : Column
  deriving DecidableEq, Repr, Inhabited

/-- The Round Key Schedule: exactly 15 State-shaped round keys, indexed 0..14 (R3, R25, R136 (c)). -/
abbrev Schedule := Vector Matrix4 15

end Sys2Proof
end

