-- ==== Sys2Proof/Syntax.lean ====
section
/-!
DEFINITION. The core's instructions: the four commands of spec/opcode_table.json (spec/30_encoding.md R73).
-/

namespace Sys2Proof

/-- A command of the core, one constructor for each row of the opcode table. Commands have no immediate fields and no
register-number fields: every operand is an implicit register (R72). The core has no other command (R159). -/
inductive Instr where
  /-- KEYEXP.E: expand KEY into the encryption-mode schedule (R153). -/
  | keyexpE
  /-- KEYEXP.D: expand KEY into the decryption-mode schedule (R154). -/
  | keyexpD
  /-- ENC: encrypt the block in DIN (R155). -/
  | enc
  /-- DEC: decrypt the block in DIN (R156). -/
  | dec
  deriving DecidableEq, Repr

end Sys2Proof
end

