-- ==== Sys2Proof/WellFormed.lean ====
section
/-!
DEFINITION. Well-formedness. A command has no operand that could be out of range (R72), so what can be well or
ill-formed is the command word's three fields (R71). Each check below is one line of R74.
-/

namespace Sys2Proof

/-- The fields of the one command-word format, CMD32 (R71). -/
structure CmdFields where
  /-- OP, bits 1:0. -/
  op : BitVec 2
  /-- D, bit 2: the document's `for_decryption` flag. -/
  d : Bool
  /-- RSV, bits 31:3. -/
  rsv : BitVec 29
  deriving DecidableEq, Repr

/-- OP = 0b00 is illegal (R71, R74). -/
def CmdFields.opLegal (f : CmdFields) : Bool := f.op != 0b00#2

/-- D must be 0 for ENC (OP = 0b10) and for DEC (OP = 0b11) (R71, R74). -/
def CmdFields.modeLegal (f : CmdFields) : Bool := !(f.d && (f.op == 0b10#2 || f.op == 0b11#2))

/-- RSV must be 0 (R71, R74). -/
def CmdFields.reservedZero (f : CmdFields) : Bool := f.rsv == 0#29

/-- The fields make a legal command word (R73, R74). -/
def CmdFields.wellFormed (f : CmdFields) : Bool := f.opLegal && f.modeLegal && f.reservedZero

/-- The fields of each command's word (R73). -/
def Instr.fields : Instr → CmdFields
  | .keyexpE => ⟨0b01, false, 0⟩
  | .keyexpD => ⟨0b01, true, 0⟩
  | .enc => ⟨0b10, false, 0⟩
  | .dec => ⟨0b11, false, 0⟩

/-- An instruction is well-formed when its fields make a legal command word. Every one is (`Laws.EncodesLegally.Statement`). -/
def Instr.wellFormed (i : Instr) : Bool := i.fields.wellFormed

end Sys2Proof
end

