-- ==== Sys2Proof/Decode.lean ====
section
/-!
DEFINITION. The decoder of command words, total on any word (spec/30_encoding.md R71 to R76), and after it the encoder,
written from the fields of R71 and R73.
-/

namespace Sys2Proof

/-- The three fields of a command word: `OP = cmd[1:0]`, `D = cmd[2]`, `RSV = cmd[31:3]` (R71). -/
def splitFields (w : BusWord) : CmdFields :=
  { op := w.extractLsb' 0 2, d := w.getLsbD 2, rsv := w.extractLsb' 3 29 }

/-- `Decode(cmd)` of R75: exactly four words are commands (R73), every other word is ILLEGAL (`none`). -/
def decode (w : BusWord) : Option Instr :=
  if w = 0x00000001#32 then some .keyexpE
  else if w = 0x00000005#32 then some .keyexpD
  else if w = 0x00000002#32 then some .enc
  else if w = 0x00000003#32 then some .dec
  else none

/-- The bus word of four bytes, the one at the lowest offset first: `B[4j+3] ‖ B[4j+2] ‖ B[4j+1] ‖ B[4j]` (R52). -/
def busWordOf (b0 b1 b2 b3 : Byte) : BusWord := b3 ++ b2 ++ b1 ++ b0

/-- Byte lane `k` of a bus word: bits [8k+7 : 8k] (R52, R54). -/
def lane (v : BusWord) (k : Nat) : Byte := v.extractLsb' (8 * k) 8

/-- Decode the command word that stands in the first four bytes, and leave the rest. Fewer than four bytes are no command
word: a narrower CMD write is a bus error, so a partial command word can never be seen (R76). -/
def decodeBytes : List Byte → Option (Instr × List Byte)
  | b0 :: b1 :: b2 :: b3 :: rest => (decode (busWordOf b0 b1 b2 b3)).map (·, rest)
  | _ => none

/-- The word that an instruction of the opcode table makes, its bits numbered as the table numbers them: the bits from
`nbits` on are 0, and a command word has 32 bits (R76). -/
def tableWord (nbits w : Nat) : Nat := w % 2 ^ nbits

/-- The instruction that the decoder reads from an opcode-table word: its bytes laid out as the bus carries them (R52),
then decoded. A word with a bit above bit 31 is no command word (R76). -/
def decodeTableWord (nbits w : Nat) : Option Instr :=
  let v := tableWord nbits w
  if v < 2 ^ 32 then
    let b := BitVec.ofNat 32 v
    (decodeBytes [lane b 0, lane b 1, lane b 2, lane b 3]).map Prod.fst
  else none

/-- The command word of three fields: `RSV ‖ D ‖ OP` (R71). -/
def joinFields (f : CmdFields) : BusWord := f.rsv ++ BitVec.ofBool f.d ++ f.op

/-- The command word of an instruction, from the fields of R73. -/
def encode (i : Instr) : BusWord := joinFields i.fields

/-- The four bytes of an instruction's command word, as the bus carries them (R52). -/
def encodeBytes (i : Instr) : List Byte :=
  [lane (encode i) 0, lane (encode i) 1, lane (encode i) 2, lane (encode i) 3]

end Sys2Proof
end

