-- ==== Sys2Proof/Config.lean ====
section
/-!
DEFINITION. What the spec leaves to an implementation, and the free values.

A free value is an opaque constant: nothing in Lean can compute it or prove a value of it, so that a claim about the
model holds whatever it is (spec/20_memory.md R59: "the model must admit every byte value, and its proofs must hold
under every choice").
-/

namespace Sys2Proof

/-- The draws `any_byte()` of R10 and R59: the byte drawn by the `n`-th draw of the machine. No law links two draws. The
counter that the machine advances, so that no draw is used twice, is `Machine.State.draws`. -/
opaque Config.anyByte : Nat → Byte

/-- `RCON[j]` for an index `j` outside 1..7. R131 gives RCON for 1..7 only, and 90_conflicts.md C6 leaves every other
index undefined because nothing reads it: a free value, never a number of the model's choosing. -/
opaque Config.rconOutside : Nat → Byte

/-- A latency parameter of R7: a number of bus cycles that is at least 1, or unbounded. `cycles n` stands for `n + 1`
cycles, so that a latency of 0 cannot be written down. -/
inductive Latency where
  /-- `n + 1` bus cycles from the command's CMD write to its completion. -/
  | cycles (n : Nat)
  /-- No bound. -/
  | unbounded
  deriving DecidableEq, Repr, Inhabited

/-- The number of bus cycles of a latency, where it has one. -/
def Latency.count : Latency → Option Nat
  | .cycles n => some (n + 1)
  | .unbounded => none

/-- `LAT_KEYEXP` of R7. Nothing in the model reads it: "No rule of the model depends on their values" (R228). -/
opaque Config.latKeyexp : Latency

/-- `LAT_ENC` of R7, read by nothing (R228). -/
opaque Config.latEnc : Latency

/-- `LAT_DEC` of R7, read by nothing (R228). -/
opaque Config.latDec : Latency

end Sys2Proof
end

