-- ==== Sys2Proof/Machine/State.lean ====
section
/-!
DEFINITION. The core's whole state, as plain data (spec/10_state.md: "KEY, DIN, DOUT, ST, RK, CMD, STATUS and PEND are its
whole state", R35), the environment that drives it, and the state after reset (R36).

The core has no program counter (R33), no memory of its own (R50, R61) and no other register (R35): its one address space
is the 512-byte register window, whose bytes are the bytes of the registers below. CMD holds no state (R26).

The last three fields are the model's own, not the spec's: what the host and the platform will do and in which order
(`turns`), what the host was last answered (`response`), and the counter of the draws (`draws`). See
notes/assumptions/1.md, 2.md and 3.md.
-/

namespace Sys2Proof.Machine

open Sys2Proof

/-- STATUS, field by field (R27). Bits 31:8 are reserved and always read 0, so they are no state. -/
@[ext]
structure Status where
  /-- Bit 0: a command is in flight (R28). -/
  busy : Bool
  /-- Bit 1: RK holds a complete schedule expanded from the current KEY (R29). -/
  kv : Bool
  /-- Bit 2: the mode of the schedule in RK, 1 = decryption-mode (R29). -/
  kd : Bool
  /-- Bit 3: DOUT holds the result of the most recent ENC or DEC that was issued (R30). -/
  ov : Bool
  /-- Bit 4: an error has been recorded (R202). -/
  err : Bool
  /-- Bits 7:5: the code of the most recent recorded error (R201). -/
  ecode : BitVec 3
  deriving DecidableEq, Repr

/-- The two kinds of host transaction (R70). -/
inductive AccessKind where
  /-- A bus read. -/
  | read
  /-- A bus write, with the value on the bus. -/
  | write (v : BusWord)
  deriving DecidableEq, Repr

/-- One host bus access. The offset is one of the 512 byte offsets of the register window (R50), the width is in bits: an
access of a width other than 32 can be made, and gets a bus error (R53). -/
structure Access where
  /-- Read or write. -/
  kind : AccessKind
  /-- The byte offset in the window, 0x000 to 0x1FF. -/
  offset : Fin 512
  /-- The width in bits. -/
  width : Nat
  deriving DecidableEq, Repr

/-- Whose step is next: the two agents of R12, and the platform's reset input (R225). -/
inductive Turn where
  /-- The host performs one bus access. -/
  | host (a : Access)
  /-- The core engine takes its step, if it is enabled (R157). -/
  | engine
  /-- The platform asserts reset (R225). -/
  | reset
  deriving DecidableEq, Repr

/-- What the host was answered to its last access (R55, R57, R205). -/
inductive Response where
  /-- No access has been answered since reset. -/
  | idle
  /-- A read returned this word. -/
  | data (v : BusWord)
  /-- A write ended normally. -/
  | done
  /-- The access ended with an error indication instead of data (R205). -/
  | busError
  deriving DecidableEq, Repr

/-- The whole state. -/
@[ext]
structure State where
  /-- KEY, 32 bytes (R20). -/
  key : Bytes 32
  /-- DIN, the input block (R21). -/
  din : Bytes 16
  /-- DOUT, the output block (R22). -/
  dout : Bytes 16
  /-- ST, the block state matrix (R23). -/
  st : Matrix4
  /-- RK, the round-key schedule register file (R25). -/
  rk : Schedule
  /-- STATUS (R27). -/
  status : Status
  /-- PEND, the command in flight (R32). -/
  pend : Option Instr
  /-- The model's own: the turns still to come, the next one first. Every interleaving of host accesses, engine steps and
  resets is some list (R158). -/
  turns : List Turn
  /-- The model's own: the answer to the host's last access. -/
  response : Response
  /-- The model's own: how many draws of R59 have been made. -/
  draws : Nat
  deriving DecidableEq, Repr

/-- Why the machine stops. No state that a run from reset reaches stops it: "No behaviour of the core is `stuck`"
(93_implementation_defined.md). A bus error is no fault of the machine: it is an answer to the host, which goes on (R205). -/
inductive Fault where
  /-- Raised by the engine's step alone (`Machine.completeCommand`), in a state with BUSY = 1 and PEND = none. R157 has no
  case for it and R37 item 1 rules it out. Safe: the model stops where the spec says nothing. -/
  | engineWithoutCommand
  deriving DecidableEq, Repr

/-- Why an instruction has no meaning. -/
inductive Refusal where
  /-- The instruction of this mnemonic is not modelled. Raised by no arm of `exec`: all four commands have their meaning.
  Safe. -/
  | notModelled (mnemonic : String)
  deriving DecidableEq, Repr

/-- What a step, or an instruction, answers. -/
abbrev Result := Host.Outcome State Fault Refusal

/-- STATUS after reset: 0x00000000 (R36). -/
def Status.reset : Status :=
  { busy := false, kv := false, kd := false, ov := false, err := false, ecode := 0 }

/-- A column of four draws. -/
def drawnColumn (n : Nat) : Column :=
  ⟨Config.anyByte n, Config.anyByte (n + 1), Config.anyByte (n + 2), Config.anyByte (n + 3)⟩

/-- A matrix of sixteen draws. -/
def drawnMatrix (n : Nat) : Matrix4 :=
  ⟨drawnColumn n, drawnColumn (n + 4), drawnColumn (n + 8), drawnColumn (n + 12)⟩

/-- How many bytes R36 calls unspecified: DOUT (16), ST (16) and RK (240). Each is one draw. -/
def resetDraws : Nat := 272

/-- The reset state of R36, when `n` draws have been made before: KEY, DIN and STATUS are 0, PEND is none, and each byte
of DOUT, ST and RK is a draw of its own (R59). -/
def State.resetFrom (n : Nat) : State :=
  { key := Vector.replicate 32 0
    din := Vector.replicate 16 0
    dout := Vector.ofFn fun k => Config.anyByte (n + k.val)
    st := drawnMatrix (n + 16)
    rk := Vector.ofFn fun i => drawnMatrix (n + 32 + 16 * i.val)
    status := Status.reset
    pend := none
    turns := []
    response := .idle
    draws := n + resetDraws }

/-- The machine right after its first reset (R36, R226). -/
def State.reset : State := State.resetFrom 0

end Sys2Proof.Machine
end

