-- ==== Sys2Proof/Machine/Flags.lean ====
section
/-!
DEFINITION. Every computation of STATUS (spec/10_state.md R27 to R31; spec/60_exceptions.md R201, R202): one named update
for each thing a rule does to its fields, and the word that a read of STATUS returns. The host can write none of them.
-/

namespace Sys2Proof.Machine

open Sys2Proof

/-- ECODE 1, ILLEGAL_CMD (R201). -/
def illegalCmd : BitVec 3 := 1
/-- ECODE 2, NO_SCHEDULE (R201). -/
def noSchedule : BitVec 3 := 2
/-- ECODE 3, MODE_MISMATCH (R201). -/
def modeMismatch : BitVec 3 := 3
/-- ECODE 4, BUSY_WRITE (R201). -/
def busyWrite : BitVec 3 := 4

/-- The word a read of STATUS returns: BUSY in bit 0, KV 1, KD 2, OV 3, ERR 4, ECODE 7:5, and 0 in 31:8 (R27). -/
def Status.word (f : Status) : BusWord :=
  0#24 ++ f.ecode ++ BitVec.ofBool f.err ++ BitVec.ofBool f.ov ++ BitVec.ofBool f.kd ++ BitVec.ofBool f.kv
    ++ BitVec.ofBool f.busy

/-- `SetErr(code)`: ERR <- 1 and ECODE <- code, over any earlier code (R202). -/
def Status.withError (f : Status) (code : BitVec 3) : Status := { f with err := true, ecode := code }

/-- ERR <- 0; ECODE <- 0, the start of every CMD write made while BUSY = 0 (R150, R202). -/
def Status.withoutError (f : Status) : Status := { f with err := false, ecode := 0 }

/-- KV <- 0; KD <- 0: a KEY write (R31) and the issue of a KEYEXP (R153, R154). -/
def Status.scheduleInvalid (f : Status) : Status := { f with kv := false, kd := false }

/-- KV <- 1; KD <- D: the completion of a KEYEXP (R29). -/
def Status.scheduleValid (f : Status) (d : Bool) : Status := { f with kv := true, kd := d }

/-- OV <- v: 0 at the issue of ENC or DEC, 1 at its completion (R30). -/
def Status.withOutput (f : Status) (v : Bool) : Status := { f with ov := v }

/-- BUSY <- v: 1 at acceptance, 0 at completion (R28). -/
def Status.withBusy (f : Status) (v : Bool) : Status := { f with busy := v }

end Sys2Proof.Machine
end

