-- ==== Sys2Proof/Machine/Operands.lean ====
section
/-!
DEFINITION. Operand assembly: bytes of a column and of a matrix, the block ↔ matrix conversion of R24, and a bus word laid
over a byte register (R52, R54). No operand is sign-extended, scaled or shifted (R72).
-/

namespace Sys2Proof.Machine

open Sys2Proof

/-- The byte of a column at row `r` (R9). -/
def byteOf (a : Column) (r : Fin 4) : Byte :=
  match r with
  | 0 => a.r0
  | 1 => a.r1
  | 2 => a.r2
  | 3 => a.r3

/-- Column `c` of a matrix (R9). -/
def columnOf (m : Matrix4) (c : Fin 4) : Column :=
  match c with
  | 0 => m.c0
  | 1 => m.c1
  | 2 => m.c2
  | 3 => m.c3

/-- `st[c][r]`: the first index is the column (R9). -/
def cell (m : Matrix4) (c r : Fin 4) : Byte := byteOf (columnOf m c) r

/-- The column with the byte `f r` at each row `r`. -/
def columnFrom (f : Fin 4 → Byte) : Column := ⟨f 0, f 1, f 2, f 3⟩

/-- The matrix with the byte `f c r` at each column `c` and row `r`: the spec's `for c in 0..3, r in 0..3: st'[c][r] = …`. -/
def matrixFrom (f : Fin 4 → Fin 4 → Byte) : Matrix4 :=
  ⟨columnFrom (f 0), columnFrom (f 1), columnFrom (f 2), columnFrom (f 3)⟩

/-- The index `4c + r` of a block byte (R24). -/
def blockIndex (c r : Fin 4) : Fin 16 := ⟨4 * c.val + r.val, by omega⟩

/-- `LoadState(b)`: `st[c][r] = b[4c + r]` (R24). -/
def loadState (b : Bytes 16) : Matrix4 := matrixFrom fun c r => b.get (blockIndex c r)

/-- `StoreState(st)`: `b[4c + r] = st[c][r]` (R24), so byte `k` is at column `k div 4`, row `k mod 4`. -/
def storeState (m : Matrix4) : Bytes 16 :=
  Vector.ofFn fun k => cell m ⟨k.val / 4, by omega⟩ ⟨k.val % 4, by omega⟩

/-- A byte register after a word write at its byte `k`: `B[k] <- v[7:0]; … B[k+3] <- v[31:24]`, every other byte as it was
(R52, R54). -/
def putWord {n : Nat} (b : Bytes n) (k : Nat) (v : BusWord) : Bytes n :=
  Vector.ofFn fun j => if k ≤ j.val ∧ j.val < k + 4 then lane v (j.val - k) else b.get j

end Sys2Proof.Machine
end

