-- ==== Sys2Proof/Machine/Ops.lean ====
section
/-!
DEFINITION. The named operations over the register window and the core's registers: the address map, the read of one byte
and of one word, the two register writes, recording an error, the bus error, issue, refusal, acceptance, retirement and
reset. Every register is read and written here or in the completions of Machine/Commands.lean.
-/

namespace Sys2Proof.Machine

open Sys2Proof

/-! ## The register window -/

/-- The rows of the register map (R51). -/
inductive Region where
  /-- KEY, RW. -/
  | key
  /-- DIN, RW. -/
  | din
  /-- DOUT, RO. -/
  | dout
  /-- CMD, WO. -/
  | cmd
  /-- STATUS, RO. -/
  | status
  /-- RK, RO. -/
  | rk
  /-- 0x048 to 0x0FF and 0x1F0 to 0x1FF: nothing is there (R58). -/
  | unmapped
  deriving DecidableEq, Repr

/-- The row of the register map that an offset falls in (R51). -/
def regionOf (o : Nat) : Region :=
  if o < 0x020 then .key
  else if o < 0x030 then .din
  else if o < 0x040 then .dout
  else if o < 0x044 then .cmd
  else if o < 0x048 then .status
  else if o < 0x100 then .unmapped
  else if o < 0x1F0 then .rk
  else .unmapped

/-- The byte at a window offset (R20 to R22, R25 to R27, R51). `none` where nothing is mapped. -/
def byteAt (s : State) (o : Nat) : Option Byte :=
  match regionOf o with
  | .key => s.key[o]?
  | .din => s.din[o - 0x020]?
  | .dout => s.dout[o - 0x030]?
  | .cmd => some 0
  | .status => some (lane s.status.word (o - 0x044))
  | .rk => s.rk[(o - 0x100) / 16]?.bind fun k => (storeState k)[(o - 0x100) % 16]?
  | .unmapped => none

/-- The word at an aligned offset: `B[o+3] ‖ B[o+2] ‖ B[o+1] ‖ B[o]` (R52). `none` where a byte of it is not mapped. -/
def wordAtOffset (s : State) (o : Nat) : Option BusWord :=
  match byteAt s o, byteAt s (o + 1), byteAt s (o + 2), byteAt s (o + 3) with
  | some b0, some b1, some b2, some b3 => some (busWordOf b0 b1 b2 b3)
  | _, _, _, _ => none

/-- The word of the next four draws (R55, R59). -/
def drawnWord (n : Nat) : BusWord :=
  busWordOf (Config.anyByte n) (Config.anyByte (n + 1)) (Config.anyByte (n + 2)) (Config.anyByte (n + 3))

/-! ## Answers to the host -/

/-- The host is answered `r`. This is no state of the core. -/
def respond (r : Response) (s : State) : State := { s with response := r }

/-- `raise BusError(addr)`: the access ends with an error indication, no core register changes, ERR is not set (R205). -/
def busError (s : State) : State := respond .busError s

/-- A read of DOUT or RK while BUSY = 1 returns four fresh draws; the registers keep their values (R55, R59). -/
def answerDraws (s : State) : State := { s with response := .data (drawnWord s.draws), draws := s.draws + 4 }

/-! ## Recorded errors -/

/-- `SetErr(code)`, the one way an error is recorded (R202). No control flow changes and nothing is saved (R206). -/
def recordError (code : BitVec 3) (s : State) : State := { s with status := s.status.withError code }

/-- ERR <- 0; ECODE <- 0 (R150). -/
def clearError (s : State) : State := { s with status := s.status.withoutError }

/-- A write to KEY, DIN or CMD while BUSY = 1 is dropped, and recorded as BUSY_WRITE (R56). -/
def dropWrite (s : State) : State := recordError busyWrite s

/-- `Refuse(code)`: record the error and change nothing else (R152). -/
def refuse (code : BitVec 3) (s : State) : State := recordError code s

/-! ## The host's register writes -/

/-- KV <- 0; KD <- 0. RK is not cleared (R31). -/
def invalidateSchedule (s : State) : State := { s with status := s.status.scheduleInvalid }

/-- A word write to KEY at offset `o`: the four bytes, then KV and KD (R31, R54); dropped while BUSY = 1 (R56). -/
def writeKeyWord (o : Nat) (v : BusWord) (s : State) : State :=
  if s.status.busy then dropWrite s else invalidateSchedule { s with key := putWord s.key o v }

/-- A word write to DIN at offset `0x020 + o`: the four bytes and no more (R54, R60); dropped while BUSY = 1 (R56). -/
def writeDinWord (o : Nat) (v : BusWord) (s : State) : State :=
  if s.status.busy then dropWrite s else { s with din := putWord s.din o v }

/-! ## Issue and completion of a command -/

/-- PEND <- cmd; BUSY <- 1, the first line of `Accept` (R151). -/
def accept (i : Instr) (s : State) : State := { s with pend := some i, status := s.status.withBusy true }

/-- OV <- v (R30). -/
def setOutputValid (v : Bool) (s : State) : State := { s with status := s.status.withOutput v }

/-- ENC and DEC: NO_SCHEDULE where KV = 0, then MODE_MISMATCH where the schedule is not of the mode needed (R150). -/
def checkSchedule (needsDecryption : Bool) (f : Status) : Option (BitVec 3) :=
  if f.kv = false then some noSchedule
  else if f.kd ≠ needsDecryption then some modeMismatch
  else none

/-- KEYEXP: no check, since every key is accepted (R150, R153). -/
def checkNothing (_ : Status) : Option (BitVec 3) := none

/-- A CMD write of the legal command `i`. While BUSY = 1 it is dropped (R56). Otherwise `IssueCommand` (R150): the error is
cleared, the command's check is made, and the command is refused (R152) or accepted with its issue effects (R151). -/
def issue (i : Instr) (check : Status → Option (BitVec 3)) (effects : State → State) (s : State) : State :=
  if s.status.busy then dropWrite s
  else
    match check (clearError s).status with
    | some code => refuse code (clearError s)
    | none => effects (accept i (clearError s))

/-- A CMD write, with BUSY = 0, of a word that is no command: ILLEGAL_CMD (R74, R150). -/
def refuseIllegal (s : State) : State := refuse illegalCmd (clearError s)

/-- PEND <- none; BUSY <- 0, the last line of every completion; ERR and ECODE are not changed (R157). -/
def retire (s : State) : State := { s with pend := none, status := s.status.withBusy false }

/-! ## Reset -/

/-- The platform's reset (R225): every register takes its reset value, with fresh draws, and a command in flight is
abandoned. What the host and the platform do afterwards is not the core's, so `turns` stays. -/
def platformReset (s : State) : State := { State.resetFrom s.draws with turns := s.turns }

/-- A state in which the turn `t` is the next one. -/
def State.withTurn (t : Turn) (s : State) : State := { s with turns := t :: s.turns }

end Sys2Proof.Machine
end

