-- ==== Sys2Proof/Machine/Galois.lean ====
section
/-!
DEFINITION. The GF(2^8) multiplier under x^8 + x^4 + x^3 + x + 1 (spec/40_gf_arith.md R100 to R105). Bit i of a byte is
the coefficient of x^i, and addition is XOR (R100). The multiplier is general: total over all 65,536 pairs, with no fault
for any multiplier (R102, R104).
-/

namespace Sys2Proof.Machine

open Sys2Proof

/-- The reduction polynomial as a 9-bit value, 0x11B (R100). -/
def reduction : BitVec 9 := 0x11B#9

/-- `xtime(a)`: multiplication by x (R101). -/
def xtime (a : Byte) : Byte :=
  let t : BitVec 9 := a.setWidth 9 <<< 1
  (if t.getLsbD 8 then t ^^^ reduction else t).setWidth 8

/-- One turn of R102's loop: with the running product `p` and `a` times x^i, add `a` where bit i of `b` is set, and
multiply `a` by x. -/
def gmulStep (b : Byte) (pa : Byte × Byte) (i : Nat) : Byte × Byte :=
  (if b.getLsbD i then pa.1 ^^^ pa.2 else pa.1, xtime pa.2)

/-- `gmul(a, b)`: shift and reduce over the bits 0..7 of `b` (R102). -/
def gmul (a b : Byte) : Byte := ([0, 1, 2, 3, 4, 5, 6, 7].foldl (gmulStep b) (0, a)).1

/-- Every byte, in rising order. -/
def allBytes : List Byte := (List.range 256).map (BitVec.ofNat 8)

/-- `Inv(x)` of R111: `Inv(0) = 0`, and for `x ≠ 0` the unique `y` with `gmul(x, y) = 0x01`, found by search. -/
def gfInverse (x : Byte) : Byte := (allBytes.find? fun y => gmul x y == 0x01#8).getD 0

end Sys2Proof.Machine
end

