-- ==== Sys2Proof/Machine/RowsColumns.lean ====
section
/-!
DEFINITION. The row permutations and the column mixings (spec/42_rows_columns.md R120 to R125). Column numbers are counted
mod 4, as `Fin 4` adds and subtracts.
-/

namespace Sys2Proof.Machine

open Sys2Proof

/-- `ShiftRows(st)`: `st'[c][r] = st[(c + r) mod 4][r]` (R120). -/
def shiftRows (m : Matrix4) : Matrix4 := matrixFrom fun c r => cell m (c + r) r

/-- `InvShiftRows(st)`: `st'[c][r] = st[(c - r + 4) mod 4][r]` (R121). -/
def invShiftRows (m : Matrix4) : Matrix4 := matrixFrom fun c r => cell m (c - r) r

/-- One column of `MixColumns` (R123). The coefficient 1 is a plain copy (90_conflicts.md C3). -/
def mixColumn (a : Column) : Column :=
  { r0 := gmul a.r0 2 ^^^ gmul a.r1 3 ^^^ a.r2 ^^^ a.r3
    r1 := a.r0 ^^^ gmul a.r1 2 ^^^ gmul a.r2 3 ^^^ a.r3
    r2 := a.r0 ^^^ a.r1 ^^^ gmul a.r2 2 ^^^ gmul a.r3 3
    r3 := gmul a.r0 3 ^^^ a.r1 ^^^ a.r2 ^^^ gmul a.r3 2 }

/-- One column of `InvMixColumns` (R124). -/
def invMixColumn (a : Column) : Column :=
  { r0 := gmul a.r0 14 ^^^ gmul a.r1 11 ^^^ gmul a.r2 13 ^^^ gmul a.r3 9
    r1 := gmul a.r0 9 ^^^ gmul a.r1 14 ^^^ gmul a.r2 11 ^^^ gmul a.r3 13
    r2 := gmul a.r0 13 ^^^ gmul a.r1 9 ^^^ gmul a.r2 14 ^^^ gmul a.r3 11
    r3 := gmul a.r0 11 ^^^ gmul a.r1 13 ^^^ gmul a.r2 9 ^^^ gmul a.r3 14 }

/-- Every column of a matrix through one function: the mixings are column-independent (R123). -/
def mapColumns (f : Column → Column) (m : Matrix4) : Matrix4 := ⟨f m.c0, f m.c1, f m.c2, f m.c3⟩

/-- `MixColumns(st)` (R123). -/
def mixColumns (m : Matrix4) : Matrix4 := mapColumns mixColumn m

/-- `InvMixColumns(st)` (R124). -/
def invMixColumns (m : Matrix4) : Matrix4 := mapColumns invMixColumn m

end Sys2Proof.Machine
end

