-- ==== Sys2Proof/Machine/KeySchedule.lean ====
section
/-!
DEFINITION. The key schedule expander (spec/43_key_schedule.md R130 to R136): from a 32-byte key to 15 round keys, in
encryption mode or in equivalent-inverse decryption mode. It is a total function of the key: no key is rejected (R133).
-/

namespace Sys2Proof.Machine

open Sys2Proof

/-- `RotWord([a0, a1, a2, a3]) = [a1, a2, a3, a0]` (R130). -/
def rotWord (a : Column) : Column := ⟨a.r1, a.r2, a.r3, a.r0⟩

/-- `SubWord`: each byte through SBOX (R130). -/
def subWord (a : Column) : Column := ⟨sbox a.r0, sbox a.r1, sbox a.r2, sbox a.r3⟩

/-- `w ⊕ v`: bytewise XOR of two words (R130). -/
def xorWord (a b : Column) : Column := ⟨a.r0 ^^^ b.r0, a.r1 ^^^ b.r1, a.r2 ^^^ b.r2, a.r3 ^^^ b.r3⟩

/-- The doubling sequence 0x01, 0x02, 0x04, …: its entry `n` is x^n (R131). -/
def doubling : Nat → Byte
  | 0 => 0x01#8
  | n + 1 => xtime (doubling n)

/-- `RCON[j]`: `RCON[1] = 0x01` and `RCON[j+1] = xtime(RCON[j])` for the seven indices that are ever read, and a free value
outside them (R131, 90_conflicts.md C6). -/
def rcon (j : Nat) : Byte := if 1 ≤ j ∧ j ≤ 7 then doubling (j - 1) else Config.rconOutside j

/-- `w[j] = [key[4j], key[4j+1], key[4j+2], key[4j+3]]` for the first eight words (R132). -/
def keyWord (key : Bytes 32) (j : Fin 8) : Column :=
  ⟨key[4 * j.val], key[4 * j.val + 1], key[4 * j.val + 2], key[4 * j.val + 3]⟩

/-- The `tmp` of R132 for the word index `i`, from the word before it. -/
def scheduleTemp (i : Nat) (before : Column) : Column :=
  if i % 8 = 0 then
    let t := subWord (rotWord before)
    { t with r0 := t.r0 ^^^ rcon (i / 8) }
  else if i % 8 = 4 then subWord before
  else before

/-- Word `i` of a list of words. Past the end of the list it is the zero word, which no rule reads. -/
def wordAt (ws : List Column) (i : Nat) : Column := ws.getD i default

/-- One turn of R132's loop: put `w[i] = w[i-8] xor tmp` after the words `w[0..i-1]`. -/
def appendWord (ws : List Column) (i : Nat) : List Column :=
  ws ++ [xorWord (wordAt ws (i - 8)) (scheduleTemp i (wordAt ws (i - 1)))]

/-- The words `w[0..7]`, copied from the key (R132). -/
def firstWords (key : Bytes 32) : List Column := List.ofFn (keyWord key)

/-- `ExpandWords(key)`: the words `w[0]` to `w[59]`, for i in 8..59 (R132, 90_conflicts.md C2). -/
def expandWords (key : Bytes 32) : List Column := (List.range' 8 52).foldl appendWord (firstWords key)

/-- `GroupRoundKeys(w)`: `rk[i][c][r] = w[4i + c][r]` (R134). -/
def groupRoundKeys (ws : List Column) : Schedule :=
  Vector.ofFn fun i => ⟨wordAt ws (4 * i.val), wordAt ws (4 * i.val + 1), wordAt ws (4 * i.val + 2), wordAt ws (4 * i.val + 3)⟩

/-- `PrepareInverse(rk)`: InvMixColumns on the round keys 1..13, and 0 and 14 unchanged (R135). -/
def prepareInverse (rk : Schedule) : Schedule :=
  Vector.ofFn fun i => if 1 ≤ i.val ∧ i.val ≤ 13 then invMixColumns (rk.get i) else rk.get i

/-- `expand_key(key, for_decryption)` (R133). -/
def expandKey (key : Bytes 32) (forDecryption : Bool) : Schedule :=
  let rk := groupRoundKeys (expandWords key)
  if forDecryption then prepareInverse rk else rk

end Sys2Proof.Machine
end

