-- ==== Sys2Proof/Machine/RoundPipeline.lean ====
section
/-!
DEFINITION. The 14-round forward and inverse pipelines (spec/44_round_pipeline.md R140 to R145). Each is a pure, total
function of a matrix and a schedule (R11, R145): no value passes from one block to the next.
-/

namespace Sys2Proof.Machine

open Sys2Proof

/-- `AddRoundKey(st, k)`: `st'[c][r] = st[c][r] xor k[c][r]` (R140). -/
def addRoundKey (m k : Matrix4) : Matrix4 := matrixFrom fun c r => cell m c r ^^^ cell k c r

/-- The 13 full rounds' numbers, rising (R143). -/
def fullRounds : List (Fin 15) := [1, 2, 3, 4, 5, 6, 7, 8, 9, 10, 11, 12, 13]

/-- Full round `i` of the forward pipeline: SubBytes, ShiftRows, MixColumns, AddRoundKey with key `i` (R141). -/
def encryptRound (rk : Schedule) (m : Matrix4) (i : Fin 15) : Matrix4 :=
  addRoundKey (mixColumns (shiftRows (subBytes m))) (rk.get i)

/-- `EncryptBlock(st, rk)`: key 0, the 13 full rounds rising, and a final round with key 14 and no MixColumns (R141). -/
def encryptBlock (m : Matrix4) (rk : Schedule) : Matrix4 :=
  let full := fullRounds.foldl (encryptRound rk) (addRoundKey m (rk.get 0))
  addRoundKey (shiftRows (subBytes full)) (rk.get 14)

/-- Full round `i` of the inverse pipeline: InvSubBytes, InvShiftRows, InvMixColumns, AddRoundKey with key `i` (R142). -/
def decryptRound (dk : Schedule) (m : Matrix4) (i : Fin 15) : Matrix4 :=
  addRoundKey (invMixColumns (invShiftRows (invSubBytes m))) (dk.get i)

/-- `DecryptBlock(st, dk)`: key 14, the 13 full rounds falling, and a final round with key 0 and no InvMixColumns (R142). -/
def decryptBlock (m : Matrix4) (dk : Schedule) : Matrix4 :=
  let full := fullRounds.reverse.foldl (decryptRound dk) (addRoundKey m (dk.get 14))
  addRoundKey (invShiftRows (invSubBytes full)) (dk.get 0)

end Sys2Proof.Machine
end

