-- ==== Sys2Proof/Machine/Commands.lean ====
section
/-!
DEFINITION. The four commands (spec/45_commands.md R150 to R157). A command has two halves. Its ISSUE is what the CMD write
of its word does, at once (`exec…`, the arms of `exec`). Its COMPLETION is what the core engine's one later atomic step does
(`complete…`, the arms of `completeCommand` in Machine/Engine.lean). Together they are the command's whole effect.
-/

namespace Sys2Proof.Machine

open Sys2Proof

/-- KEYEXP.E, issue: never refused; KV <- 0 and KD <- 0 (R153). -/
def execKeyexpE (s : State) : Result := .next (issue .keyexpE checkNothing invalidateSchedule s)

/-- KEYEXP.D, issue: never refused; KV <- 0 and KD <- 0 (R154). -/
def execKeyexpD (s : State) : Result := .next (issue .keyexpD checkNothing invalidateSchedule s)

/-- ENC, issue: needs KV = 1 and KD = 0; OV <- 0 (R155). -/
def execEnc (s : State) : Result := .next (issue .enc (checkSchedule false) (setOutputValid false) s)

/-- DEC, issue: needs KV = 1 and KD = 1; OV <- 0 (R156). -/
def execDec (s : State) : Result := .next (issue .dec (checkSchedule true) (setOutputValid false) s)

/-- RK <- rk; KV <- 1; KD <- D (R29, R153, R154). -/
def writeSchedule (d : Bool) (rk : Schedule) (s : State) : State :=
  { s with rk := rk, status := s.status.scheduleValid d }

/-- ST <- the matrix; DOUT <- StoreState(ST); OV <- 1 (R155, R156). -/
def writeBlock (m : Matrix4) (s : State) : State :=
  { s with st := m, dout := storeState m, status := s.status.withOutput true }

/-- KEYEXP.E, completion: RK <- expand_key(KEY, false); KV <- 1; KD <- 0 (R153, R157). -/
def completeKeyexpE (s : State) : State := retire (writeSchedule false (expandKey s.key false) s)

/-- KEYEXP.D, completion: RK <- expand_key(KEY, true); KV <- 1; KD <- 1 (R154, R157). -/
def completeKeyexpD (s : State) : State := retire (writeSchedule true (expandKey s.key true) s)

/-- ENC, completion: ST <- EncryptBlock(LoadState(DIN), RK); DOUT <- StoreState(ST); OV <- 1 (R155, R157). -/
def completeEnc (s : State) : State := retire (writeBlock (encryptBlock (loadState s.din) s.rk) s)

/-- DEC, completion: ST <- DecryptBlock(LoadState(DIN), RK); DOUT <- StoreState(ST); OV <- 1 (R156, R157). -/
def completeDec (s : State) : State := retire (writeBlock (decryptBlock (loadState s.din) s.rk) s)

end Sys2Proof.Machine
end

