-- ==== Sys2Proof/Machine/Dispatch.lean ====
section
/-! DEFINITION. `exec`: what a CMD write of each command's word does, one arm for each row of the opcode table. -/

namespace Sys2Proof.Machine

open Sys2Proof

def exec (i : Instr) (s : State) : Host.Outcome State Fault Refusal :=
  match i with
  | .keyexpE => Sys2Proof.Machine.execKeyexpE s
  | .keyexpD => Sys2Proof.Machine.execKeyexpD s
  | .enc => Sys2Proof.Machine.execEnc s
  | .dec => Sys2Proof.Machine.execDec s

end Sys2Proof.Machine
end

