-- ==== Sys2Proof/Machine/Engine.lean ====
section
/-! DEFINITION. The core engine, the second agent of R12, and its one kind of step (R157). -/

namespace Sys2Proof.Machine

open Sys2Proof

/-- The completion of each command (R153 to R156), the arms of R157's `case R[PEND] of`. -/
def completion (i : Instr) (s : State) : State :=
  match i with
  | .keyexpE => completeKeyexpE s
  | .keyexpD => completeKeyexpD s
  | .enc => completeEnc s
  | .dec => completeDec s

/-- `CompleteCommand()`: the completion of the command in PEND, one atomic transition (R157). -/
def completeCommand (s : State) : Result :=
  match s.pend with
  | some i => .next (completion i s)
  | none => .fault .engineWithoutCommand

/-- The engine's turn: its step is enabled exactly when BUSY = 1 (R157); otherwise it has none, and nothing changes. -/
def engineTurn (s : State) : Result := if s.status.busy then completeCommand s else .next s

end Sys2Proof.Machine
end

