-- ==== Sys2Proof/Machine/Bus.lean ====
section
/-!
DEFINITION. The host's side of the register window (spec/20_memory.md R50 to R60), with the priorities of R203, and whose
turn does what.
-/

namespace Sys2Proof.Machine

open Sys2Proof

/-- A word write to CMD: dropped while BUSY = 1 (R56), otherwise `IssueCommand` (R150), of a command or of an illegal word. -/
def cmdWrite (v : BusWord) (s : State) : Result :=
  if s.status.busy then .next (dropWrite s)
  else
    match decode v with
    | none => .next (refuseIllegal s)
    | some i => exec i s

/-- DOUT and RK, the registers whose reads are draws while BUSY = 1 (R55). -/
def drawnWhileBusy (r : Region) : Bool := r == .dout || r == .rk

/-- `MemRead(o, 4)` of an aligned offset (R55, R58). -/
def hostRead (o : Nat) (s : State) : Result :=
  if s.status.busy && drawnWhileBusy (regionOf o) then .next (answerDraws s)
  else
    match wordAtOffset s o with
    | some v => .next (respond (.data v) s)
    | none => .next (busError s)

/-- `MemWrite(o, 4, v)` of an aligned offset: KEY, DIN and CMD take the write, the read-only registers ignore it (R57), and
an unmapped offset answers a bus error (R58). -/
def hostWrite (o : Nat) (v : BusWord) (s : State) : Result :=
  match regionOf o with
  | .key => .next (writeKeyWord o v (respond .done s))
  | .din => .next (writeDinWord (o - 0x020) v (respond .done s))
  | .cmd => cmdWrite v (respond .done s)
  | .dout => .next (respond .done s)
  | .status => .next (respond .done s)
  | .rk => .next (respond .done s)
  | .unmapped => .next (busError s)

/-- An access that the core takes: 32 bits wide, at a multiple of 4 (R53). -/
def Access.legal (a : Access) : Bool := a.width == 32 && a.offset.val % 4 == 0

/-- One host bus access. Width and alignment come before every other rule (R53, R203). -/
def hostAccess (a : Access) (s : State) : Result :=
  if a.legal then
    match a.kind with
    | .read => hostRead a.offset.val s
    | .write v => hostWrite a.offset.val v s
  else .next (busError s)

/-- What a turn does: one step of one agent, or the platform's reset (R12, R62, R225). -/
def takeTurn (t : Turn) (s : State) : Result :=
  match t with
  | .host a => hostAccess a s
  | .engine => engineTurn s
  | .reset => .next (platformReset s)

/-- The next turn of the machine. When no turn is left to come, a command in flight completes, so that a completion that
stays enabled is eventually taken (weak fairness, R158), and an idle core stays as it is (R213). -/
def nextTurn (s : State) : Result :=
  match s.turns with
  | [] => engineTurn s
  | t :: rest => takeTurn t { s with turns := rest }

/-- A window offset as the bus carries it (R50). -/
def windowOffset (o : Nat) : Fin 512 := Fin.ofNat 512 o

/-- `MemRead(o, 4)` as an access (R53). -/
def readAt (o : Nat) : Access := { kind := .read, offset := windowOffset o, width := 32 }

/-- `MemWrite(o, 4, v)` as an access (R53). -/
def writeAt (o : Nat) (v : BusWord) : Access := { kind := .write v, offset := windowOffset o, width := 32 }

/-- The 32-bit CMD write of a command word (R70, R76), as a host access. -/
def cmdAccess (v : BusWord) : Access := writeAt 0x040 v

end Sys2Proof.Machine
end

