-- ==== Sys2Proof/Machine/Step.lean ====
section
/-!
DEFINITION. One step of the whole machine: one host access, one engine step or one reset (spec/00_scope.md R12;
spec/20_memory.md R62). The core fetches no instruction (R33): an instruction runs when the host writes its word to CMD.
-/

namespace Sys2Proof.Machine

open Sys2Proof

/-- One step. -/
def step (s : State) : Host.Outcome State Fault Refusal := nextTurn s

/-- The state whose very next step is the host's CMD write of the table word `w`: what stands for fetching it. -/
def State.withFetchWord (s : State) (nbits w : Nat) : State :=
  s.withTurn (.host (cmdAccess (BitVec.ofNat 32 (tableWord nbits w))))

end Sys2Proof.Machine
end

