-- ==== Sys2Proof/Machine/HostStream.lean ====
section
/-!
DEFINITION. The host's software around the core (spec/46_host_block_processor.md R171 to R174): the key mapping and the two
stream functions. They are no part of the core (R5) and no step runs them: they are here so that a claim about a whole
system can say what its streams are. No unpadding is defined (93_implementation_defined.md U8).
-/

namespace Sys2Proof.Machine

open Sys2Proof

/-- The padding byte, 0x80 (R172). -/
def paddingByte : Byte := 0x80

/-- The first 32 bytes, zero-filled where there are fewer (R171). -/
def keyFromUtf8 (u : List Byte) : Bytes 32 := Vector.ofFn fun k => u.getD k.val 0

/-- `UTF8Encode(s)` (R171). -/
def utf8Bytes (s : String) : List Byte := (s.toList.flatMap String.utf8EncodeChar).map UInt8.toBitVec

/-- `KeyFromString(s)`: truncated at a byte boundary or zero-filled, never an error (R171). -/
def keyFromString (s : String) : Bytes 32 := keyFromUtf8 (utf8Bytes s)

/-- `q` of R172: `len(p) mod 16 + 16` padding bytes after the input. -/
def padForEncryption (p : List Byte) : List Byte := p ++ List.replicate (p.length % 16 + 16) paddingByte

/-- `q` of R173: `len(c) mod 16` padding bytes after the input. -/
def padForDecryption (c : List Byte) : List Byte := c ++ List.replicate (c.length % 16) paddingByte

/-- The block `q[16j .. 16j+15]` (R172). Every index is below `len(q)` where `j < len(q) div 16`. -/
def strideBlock (q : List Byte) (j : Nat) : Bytes 16 := Vector.ofFn fun k => q.getD (16 * j + k.val) 0

/-- The strict 16-byte strides of a byte sequence; the last `len(q) mod 16` bytes are in none (R172, 90_conflicts.md C5). -/
def strides (q : List Byte) : List (Bytes 16) := (List.range (q.length / 16)).map (strideBlock q)

/-- One block through the forward pipeline, from bytes to bytes (R155, R172). -/
def encryptBytes (rk : Schedule) (b : Bytes 16) : Bytes 16 := storeState (encryptBlock (loadState b) rk)

/-- One block through the inverse pipeline, from bytes to bytes (R156, R173). -/
def decryptBytes (dk : Schedule) (b : Bytes 16) : Bytes 16 := storeState (decryptBlock (loadState b) dk)

/-- `encrypt_block_stream(p, key)` (R172). -/
def encryptBlockStream (p : List Byte) (key : Bytes 32) : List Byte :=
  (strides (padForEncryption p)).flatMap fun b => (encryptBytes (expandKey key false) b).toList

/-- `decrypt_block_stream(c, key)` (R173). -/
def decryptBlockStream (c : List Byte) (key : Bytes 32) : List Byte :=
  (strides (padForDecryption c)).flatMap fun b => (decryptBytes (expandKey key true) b).toList

end Sys2Proof.Machine
end

