-- ==== Sys2Proof/Machine/HostProgram.lean ====
section
/-!
DEFINITION. The host as an agent that runs a program in the notation of R77 (spec/30_encoding.md), one bus transaction for
each `WR` and `RD` line, beside the core. The core does not hold it: the host's program, its place in it and its names are a
structure of their own around a core state. `Machine.step` is used as it is, with the host's access put before every other
turn. The pseudo-instructions are functions that give their expansions. `HostTask.step` says once what a line does, whatever is
on the bus: one core (`HostSystem`) or a platform of several (Machine/ParallelHost.lean).
-/

namespace Sys2Proof.Machine

open Sys2Proof

/-- A line of a host program (R77). -/
inductive HostLine where
  /-- `WR off, val`. -/
  | wr (off : Fin 512) (val : BusWord)
  /-- `RD off -> name`. -/
  | rd (off : Fin 512) (name : String)
  /-- `label:`. -/
  | label (l : String)
  /-- `BNZ name, mask, label`. -/
  | bnz (name : String) (mask : BusWord) (l : String)
  /-- `; text`. -/
  | comment (text : String)
  deriving DecidableEq, Repr

/-- The word of the bytes `b[4j] .. b[4j+3]` of a byte register, the first in bits 7:0 (R52, R77). -/
def wordOfBytes {n : Nat} (b : Bytes n) (j : Nat) : BusWord :=
  busWordOf (b.getD (4 * j) 0) (b.getD (4 * j + 1) 0) (b.getD (4 * j + 2) 0) (b.getD (4 * j + 3) 0)

/-- `LDKEY k0..k31`: eight writes, in rising offset order. -/
def ldkeyLines (k : Bytes 32) : List HostLine :=
  (List.range 8).map fun j => .wr (windowOffset (4 * j)) (wordOfBytes k j)

/-- `LDBLK b0..b15`: four writes. -/
def ldblkLines (b : Bytes 16) : List HostLine :=
  (List.range 4).map fun j => .wr (windowOffset (0x020 + 4 * j)) (wordOfBytes b j)

/-- `KEYEXP.E` / `KEYEXP.D` / `ENC` / `DEC`: one write of the command's word to CMD. -/
def commandLines (i : Instr) : List HostLine := [.wr (windowOffset 0x040) (encode i)]

/-- `WAIT`: `w: RD 0x044 -> s` then `BNZ s, 0x1, w`. The label is an argument (DESIGN CHOICE, notes/assumptions/12.md), so that two
waits of one program can have two labels: with one label for both, the second wait would branch to the first. -/
def waitLines (w : String) : List HostLine :=
  [.label w, .rd (windowOffset 0x044) "s", .bnz "s" 0x1 w]

/-- `RDBLK -> o`: four reads of DOUT, into `o0` .. `o3`. -/
def rdblkLines (o : String) : List HostLine :=
  [.rd (windowOffset 0x030) (o ++ "0"), .rd (windowOffset 0x034) (o ++ "1"),
   .rd (windowOffset 0x038) (o ++ "2"), .rd (windowOffset 0x03C) (o ++ "3")]

/-- `RDRK i -> k`: four reads of round key `i`, into `k0` .. `k3`. -/
def rdrkLines (i : Fin 15) (k : String) : List HostLine :=
  [.rd (windowOffset (0x100 + 16 * i.val)) (k ++ "0"), .rd (windowOffset (0x104 + 16 * i.val)) (k ++ "1"),
   .rd (windowOffset (0x108 + 16 * i.val)) (k ++ "2"), .rd (windowOffset (0x10C + 16 * i.val)) (k ++ "3")]

/-- The host's way to process one block under a schedule that stands in RK (R170): load DIN, issue, wait, read DOUT. -/
def blockLines (i : Instr) (b : Bytes 16) (w o : String) : List HostLine :=
  ldblkLines b ++ commandLines i ++ waitLines w ++ rdblkLines o

/-- The host's way to a schedule (R170, R227 steps 1 to 3): load the key, issue a KEYEXP, wait. -/
def scheduleLines (i : Instr) (k : Bytes 32) (w : String) : List HostLine :=
  ldkeyLines k ++ commandLines i ++ waitLines w

/-- A jump to `l`: R77 has no branch that is always taken, so the host writes 1 to DIN, reads it back and branches on it. It is taken
where BUSY = 0 at the write and nothing changes DIN before the read. DESIGN CHOICE (notes/assumptions/12.md): where a reset (R225)
falls between the write and the read, DIN reads 0, the branch is not taken and the host goes on at the line after these three; no
rule says what a host does then. -/
def jumpLines (l : String) : List HostLine :=
  [.wr (windowOffset 0x020) 0x1, .rd (windowOffset 0x020) "t", .bnz "t" 0x1 l]

/-- The check of R227 step 3, that KV = 1 and ERR = 0, made on the STATUS word that `WAIT` read last, into `s`: the host goes on at
`ok`, which stands right after the check, where it holds, and at `fail` where it does not. ERR is bit 4 and KV bit 1 (R27). DESIGN
CHOICE (notes/assumptions/12.md): where KV = 0 and ERR = 0 and the jump to `fail` is cut by a reset (`jumpLines`), the host goes on at
`ok` although the check failed; and a reset after the STATUS read is not seen by the check. -/
def checkLines (ok fail : String) : List HostLine :=
  [.bnz "s" 0x10 fail, .bnz "s" 0x2 ok] ++ jumpLines fail ++ [.label ok]

/-- A host program from boot on (R227): the schedule, the check of it, and then `body`, the blocks. DESIGN CHOICE
(notes/assumptions/12.md): where the check fails the host skips the blocks, to the end of the program; but where a reset cuts its jump
(`jumpLines`) it goes on into the blocks. -/
def bootProgram (expand : Instr) (k : Bytes 32) (body : List HostLine) : List HostLine :=
  scheduleLines expand k "w" ++ checkLines "ok" "fail" ++ body ++ [.label "fail"]

/-- One run of a host program: the program, the line it runs next, and what its names hold. -/
structure HostTask where
  /-- The program. -/
  program : List HostLine
  /-- The line it runs next. -/
  position : Nat
  /-- What its names hold, each name at most once. -/
  names : List (String × BusWord)
  deriving DecidableEq, Repr

/-- A program at its first line, with no name bound. -/
def HostTask.start (program : List HostLine) : HostTask := { program := program, position := 0, names := [] }

/-- What a name holds. -/
def nameValue (names : List (String × BusWord)) (n : String) : Option BusWord :=
  (names.find? fun p => p.1 == n).map Prod.snd

/-- The names after `n <- v`. -/
def bindName (names : List (String × BusWord)) (n : String) (v : BusWord) : List (String × BusWord) :=
  (n, v) :: names.filter fun p => p.1 != n

/-- The position of a label. DESIGN CHOICE (notes/assumptions/12.md): R77 does not say where a branch continues when a label
stands twice in a program, as `w` does in two literal expansions of `WAIT`; the model takes the first line with the label. -/
def labelPosition (program : List HostLine) (l : String) : Option Nat := program.findIdx? (· == .label l)

/-- The task at the next line. -/
def HostTask.advance (t : HostTask) : HostTask := { t with position := t.position + 1 }

/-- The task after an `RD` into `name` that was answered `r`. A read that gets a bus error gives no value (R205), and the name
holds what it held (DESIGN CHOICE, notes/assumptions/12.md). -/
def HostTask.received (t : HostTask) (name : String) (r : Response) : HostTask :=
  match r with
  | .data v => { t.advance with names := bindName t.names name v }
  | .idle => t.advance
  | .done => t.advance
  | .busError => t.advance

/-- The task after `BNZ name, mask, l`. DESIGN CHOICE (notes/assumptions/12.md): no step where the name holds nothing, or where
the branch is taken and the label stands nowhere; a label that stands twice is its first line (`labelPosition`). -/
def HostTask.branch (t : HostTask) (name : String) (mask : BusWord) (l : String) : Option HostTask :=
  match nameValue t.names name with
  | none => none
  | some v =>
    if v &&& mask ≠ 0 then (labelPosition t.program l).map fun k => { t with position := k }
    else some t.advance

/-- One step of a host program: the line it stands at. A `WR` or an `RD` is one bus access, which `access` makes on what is on
the bus. `none` where the notation gives no step: past the last line, or a branch that has none. -/
def HostTask.step {σ : Type} (access : AccessKind → Fin 512 → σ → Option (Response × σ)) (t : HostTask) (s : σ) :
    Option (HostTask × σ) :=
  match t.program[t.position]? with
  | none => none
  | some (.wr off val) => (access (.write val) off s).map fun a => (t.advance, a.2)
  | some (.rd off name) => (access .read off s).map fun a => (t.received name a.1, a.2)
  | some (.label _) => some (t.advance, s)
  | some (.comment _) => some (t.advance, s)
  | some (.bnz name mask l) => (t.branch name mask l).map fun t' => (t', s)

/-- The core after the turn `t`, taken at once. `none` where the machine stops. -/
def coreTurn (t : Turn) (s : State) : Option State :=
  match step (s.withTurn t) with
  | .next s' => some s'
  | .fault _ => none
  | .refused _ => none

/-- A 32-bit access to one core at a window offset, and its answer. -/
def coreAccess (kind : AccessKind) (off : Fin 512) (s : State) : Option (Response × State) :=
  (coreTurn (.host ⟨kind, off, 32⟩) s).map fun s' => (s'.response, s')

/-- A core with the host that drives it. -/
structure HostSystem where
  /-- The host's program. -/
  task : HostTask
  /-- The core. -/
  core : State
  deriving DecidableEq, Repr

/-- The host's step: one line of its program. Where R77 is silent (a label that stands twice or nowhere, a name that holds nothing, a
read that got a bus error) it does what notes/assumptions/12.md says (DESIGN CHOICE). -/
def HostSystem.hostStep (h : HostSystem) : Option HostSystem :=
  (h.task.step coreAccess h.core).map fun r => { task := r.1, core := r.2 }

/-- The engine's step, taken between two steps of the host (R12, R157). -/
def HostSystem.engineStep (h : HostSystem) : Option HostSystem :=
  (coreTurn .engine h.core).map fun s => { h with core := s }

/-- The platform resets the core; the host goes on (R225). -/
def HostSystem.resetStep (h : HostSystem) : Option HostSystem :=
  (coreTurn .reset h.core).map fun s => { h with core := s }

/-- Whose step is next: the host's, the engine's (R12), or the platform's reset (R225). -/
inductive HostTurn where
  /-- The host runs a line. -/
  | host
  /-- The engine takes its step. -/
  | engine
  /-- The platform resets the core. -/
  | reset
  deriving DecidableEq, Repr

/-- One step of a core with its host. -/
def HostSystem.step (t : HostTurn) (h : HostSystem) : Option HostSystem :=
  match t with
  | .host => h.hostStep
  | .engine => h.engineStep
  | .reset => h.resetStep

end Sys2Proof.Machine
end

