-- ==== Sys2Proof/Machine/Platform.lean ====
section
/-!
DEFINITION. A platform with several cores, each at its own `BASE` (spec/00_scope.md R7; spec/20_memory.md R50;
spec/60_exceptions.md R212). `BASE` is an argument of an instance, as R7 asks; inside the core it has no effect (D26), so it
is no field of `State`. Instances share nothing: each has its own state, its own engine and its own reset. In which order they
move is a list of steps, any list (93_implementation_defined.md U15).

The platform holds the one counter of draws that its cores' draws are numbered from, so that two cores never draw the same draw
(R36, R59: each draw is independent). The counter is the model's own, no signal between instances: notes/assumptions/13.md.
-/

namespace Sys2Proof.Machine

open Sys2Proof

/-- One core of a platform. -/
structure CoreInstance where
  /-- `BASE`: the host bus address of its window. -/
  base : Nat
  /-- Its state. -/
  core : State
  deriving DecidableEq, Repr

/-- The cores of a platform, and how many draws they have made together. -/
structure Platform where
  /-- The instances. The model names one by its place in this list; the core itself has no identifier (R212). -/
  cores : List CoreInstance
  /-- The model's own: the number of the next draw of any of them. -/
  draws : Nat
  deriving DecidableEq, Repr

/-- A platform right after reset, with a core at each of the bases: each core takes the reset values of R36 with draws of its own. -/
def Platform.afterReset (bases : List Nat) : Platform :=
  { cores := bases.mapIdx fun k base => { base := base, core := State.resetFrom (resetDraws * k) }
    draws := resetDraws * bases.length }

/-- Every `BASE` is aligned to 512 bytes (R7), and no two cores are at one `BASE` (R212). -/
def Platform.wellFormed (p : Platform) : Bool :=
  p.cores.all (fun c => c.base % 512 == 0) && decide (p.cores.map CoreInstance.base).Nodup

/-- One turn of core `k`: a host access, its engine's step or its reset. Its draws are numbered from the platform's counter on.
`none` where there is no core `k`, or where it stops. -/
def Platform.turn (k : Nat) (t : Turn) (p : Platform) : Option Platform :=
  match p.cores[k]? with
  | none => none
  | some c =>
    (coreTurn t { c.core with draws := p.draws }).map fun s =>
      { cores := p.cores.set k { c with core := s }, draws := s.draws }

/-- The engine of core `k` takes its step (R157, R212: one command engine for each core). -/
def Platform.engineStep (k : Nat) (p : Platform) : Option Platform := p.turn k .engine

/-- Core `k` is reset, alone (R225). -/
def Platform.resetStep (k : Nat) (p : Platform) : Option Platform := p.turn k .reset

/-- The window offset that a host bus address has in the window at `base`, where it has one (R50). -/
def offsetInWindow (base addr : Nat) : Option (Fin 512) :=
  if h : base ≤ addr ∧ addr < base + 512 then some ⟨addr - base, by omega⟩ else none

/-- The core that a host bus address belongs to and the offset it has there: the first core whose window holds it, the only one
where the windows are apart (`Platform.wellFormed`). -/
def coreAt (addr : Nat) : List CoreInstance → Option (Nat × Fin 512)
  | [] => none
  | c :: rest =>
    match offsetInWindow c.base addr with
    | some o => some (0, o)
    | none => (coreAt addr rest).map fun r => (r.1 + 1, r.2)

/-- A host access at a bus address: the core whose window holds the address takes it, at its offset. `none` where no core's
window does: the access is then none of the cores' (the spec says nothing of it). -/
def Platform.access (kind : AccessKind) (width addr : Nat) (p : Platform) : Option Platform :=
  (coreAt addr p.cores).bind fun r => p.turn r.1 (.host ⟨kind, r.2, width⟩)

/-- What the core at a bus address last answered. -/
def Platform.answerAt (addr : Nat) (p : Platform) : Option Response :=
  (coreAt addr p.cores).bind fun r => p.cores[r.1]?.map fun c => c.core.response

/-- Whose step is next on a platform. -/
inductive PlatformTurn where
  /-- The host accesses a bus address. -/
  | host (kind : AccessKind) (width addr : Nat)
  /-- The engine of a core takes its step. -/
  | engine (k : Nat)
  /-- A core is reset. -/
  | reset (k : Nat)
  deriving DecidableEq, Repr

/-- One step of a platform. -/
def Platform.step (t : PlatformTurn) (p : Platform) : Option Platform :=
  match t with
  | .host kind width addr => p.access kind width addr
  | .engine k => p.engineStep k
  | .reset k => p.resetStep k

/-- The steps of a list, one after another: the instances interleave as the list says, and it may be any list (U15). -/
def Platform.run : List PlatformTurn → Platform → Option Platform
  | [], p => some p
  | t :: rest, p => (p.step t).bind (Platform.run rest)

end Sys2Proof.Machine
end

