-- ==== Sys2Proof/Machine/ParallelHost.lean ====
section
/-!
DEFINITION. A host that splits a stream across several cores (spec/46_host_block_processor.md R175): each instance gets its own
KEY write and KEYEXP and the blocks that the host gives it, and the outputs are joined in input order, whichever instance
finishes first (93_implementation_defined.md U15).
-/

namespace Sys2Proof.Machine

open Sys2Proof

/-! ## Running tasks beside the cores -/

/-- A host program that drives the core at `base`. -/
structure PlatformTask where
  /-- The `BASE` that its window offsets are counted from. -/
  base : Nat
  /-- The program and where it stands. -/
  task : HostTask
  deriving DecidableEq, Repr

/-- A host with its tasks, and the platform they run on. -/
structure ParallelHost where
  /-- The host's independent tasks. -/
  tasks : List PlatformTask
  /-- The cores. -/
  platform : Platform
  deriving DecidableEq, Repr

/-- A 32-bit access at a window offset of the core at `base`, and its answer (R50: the address is `BASE + offset`). -/
def platformAccess (base : Nat) (kind : AccessKind) (off : Fin 512) (p : Platform) : Option (Response × Platform) :=
  (p.access kind 32 (base + off.val)).bind fun q => (q.answerAt (base + off.val)).map fun r => (r, q)

/-- Task `k` of the host runs one line. `none` where there is no task `k`, or its program has no step. -/
def ParallelHost.hostStep (k : Nat) (h : ParallelHost) : Option ParallelHost :=
  match h.tasks[k]? with
  | none => none
  | some t =>
    (t.task.step (platformAccess t.base) h.platform).map fun r =>
      { tasks := h.tasks.set k { t with task := r.1 }, platform := r.2 }

/-- The engine of core `k` takes its step. -/
def ParallelHost.engineStep (k : Nat) (h : ParallelHost) : Option ParallelHost :=
  (h.platform.engineStep k).map fun p => { h with platform := p }

/-- Core `k` is reset; the host goes on. -/
def ParallelHost.resetStep (k : Nat) (h : ParallelHost) : Option ParallelHost :=
  (h.platform.resetStep k).map fun p => { h with platform := p }

/-- Whose step is next: a task's, the engine's of a core, or the reset of a core. -/
inductive ParallelTurn where
  /-- A task of the host runs a line. -/
  | host (k : Nat)
  /-- The engine of a core takes its step. -/
  | engine (k : Nat)
  /-- A core is reset. -/
  | reset (k : Nat)
  deriving DecidableEq, Repr

/-- One step of a host with its cores. -/
def ParallelHost.step (t : ParallelTurn) (h : ParallelHost) : Option ParallelHost :=
  match t with
  | .host k => h.hostStep k
  | .engine k => h.engineStep k
  | .reset k => h.resetStep k

/-! ## Splitting a stream and joining the outputs -/

/-- The name prefix that block `j` is read into: its four words are the names `o<j>0` to `o<j>3`. -/
def blockName (j : Nat) : String := "o" ++ toString j

/-- Block `j` of a list of blocks, as lines of the program of instance `k`, where the host gives the block to that instance:
`owners` holds the instance of each block, in input order. -/
def ownedBlockLines (i : Instr) (blocks : List (Bytes 16)) (owners : List Nat) (k j : Nat) : List HostLine :=
  match blocks[j]?, owners[j]? with
  | some b, some owner => if owner = k then blockLines i b ("w" ++ toString j) (blockName j) else []
  | _, _ => []

/-- The program of instance `k`: its own KEY write and KEYEXP (`expand`) with the check of R227, then its blocks, in input order, each
by `i` (R170, R175). Every `WAIT` has a label of its own. -/
def instanceProgram (expand i : Instr) (key : Bytes 32) (blocks : List (Bytes 16)) (owners : List Nat) (k : Nat) :
    List HostLine :=
  bootProgram expand key ((List.range blocks.length).flatMap (ownedBlockLines i blocks owners k))

/-- The tasks of a host that splits the blocks over the instances at `bases`, each block to the instance its owner names (R175). -/
def splitBlocks (expand i : Instr) (key : Bytes 32) (blocks : List (Bytes 16)) (owners bases : List Nat) : List PlatformTask :=
  bases.mapIdx fun k base => { base := base, task := HostTask.start (instanceProgram expand i key blocks owners k) }

/-- The tasks that encrypt a byte sequence: the padded strides of R172, under an encryption-mode schedule. -/
def encryptionTasks (p : List Byte) (key : Bytes 32) (owners bases : List Nat) : List PlatformTask :=
  splitBlocks .keyexpE .enc key (strides (padForEncryption p)) owners bases

/-- The tasks that decrypt a byte sequence: the padded strides of R173, under a decryption-mode schedule. -/
def decryptionTasks (c : List Byte) (key : Bytes 32) (owners bases : List Nat) : List PlatformTask :=
  splitBlocks .keyexpD .dec key (strides (padForDecryption c)) owners bases

/-- The four bytes of a bus word, the one at the lowest offset first (R52). -/
def bytesOfWord (v : BusWord) : List Byte := [lane v 0, lane v 1, lane v 2, lane v 3]

/-- The sixteen bytes that `RDBLK` read into the prefix `o`, where all four names hold a word. -/
def readBlock (names : List (String × BusWord)) (o : String) : Option (List Byte) :=
  match nameValue names (o ++ "0"), nameValue names (o ++ "1"), nameValue names (o ++ "2"), nameValue names (o ++ "3") with
  | some v0, some v1, some v2, some v3 => some (bytesOfWord v0 ++ bytesOfWord v1 ++ bytesOfWord v2 ++ bytesOfWord v3)
  | _, _, _, _ => none

/-- The output of block `j`, from the names of the task that owns it. -/
def blockOutput (tasks : List PlatformTask) (owners : List Nat) (j : Nat) : Option (List Byte) :=
  (owners[j]?.bind fun k => tasks[k]?).bind fun t => readBlock t.task.names (blockName j)

/-- The outputs of the blocks `j` to `j + n - 1`, one after another in input order (R175). `none` while one of them is missing. -/
def joinOutputsFrom (tasks : List PlatformTask) (owners : List Nat) (j : Nat) : Nat → Option (List Byte)
  | 0 => some []
  | n + 1 =>
    match blockOutput tasks owners j, joinOutputsFrom tasks owners (j + 1) n with
    | some b, some rest => some (b ++ rest)
    | _, _ => none

/-- What the host gives out: the outputs of all `n` blocks, in input order (R175). -/
def ParallelHost.output (h : ParallelHost) (owners : List Nat) (n : Nat) : Option (List Byte) :=
  joinOutputsFrom h.tasks owners 0 n

end Sys2Proof.Machine
end

