-- ==== Sys2Proof/Machine/FairRun.lean ====
section
/-!
DEFINITION. Endless runs of a host beside its cores, and which of them are fair (spec/45_commands.md R158: "a completion step that
stays enabled is eventually taken"). A run may take its turns in any order, so that every interleaving of R158 is some run; fairness
is what a run is asked for where a claim says that something happens at last. A run is no part of State: it is a sequence of states
and a sequence of turns.
-/

namespace Sys2Proof.Machine

open Sys2Proof

/-- `run` goes from state to state, taking the turn `turn n` at the time `n`. -/
def IsRun {σ τ : Type} (step : τ → σ → Option σ) (run : Nat → σ) (turn : Nat → τ) : Prop :=
  ∀ n, step (turn n) (run n) = some (run (n + 1))

/-- Weak fairness of the turn `t`: where it stays enabled from some time on, it is taken after that time. -/
def WeaklyFair {σ τ : Type} (enabled : σ → Prop) (t : τ) (run : Nat → σ) (turn : Nat → τ) : Prop :=
  ∀ n, (∀ m, n ≤ m → enabled (run m)) → ∃ m, n ≤ m ∧ turn m = t

/-- The host has a step: it stands at a line that has one. -/
def HostSystem.hostEnabled (h : HostSystem) : Prop := h.hostStep.isSome = true

/-- The engine has a step (R157). -/
def HostSystem.engineEnabled (h : HostSystem) : Prop := h.core.status.busy = true

/-- A fair run of a core with its host: weakly fair to the engine, as R158 assumes, and to the host, without which no polling loop
takes its next turn (DEDUCED, notes/assumptions/20.md). Resets may come at any time, or never. -/
structure HostSystem.FairRun (run : Nat → HostSystem) (turn : Nat → HostTurn) : Prop where
  /-- The steps are those of the system. -/
  isRun : IsRun HostSystem.step run turn
  /-- R158: a completion step that stays enabled is eventually taken. -/
  engine : WeaklyFair HostSystem.engineEnabled .engine run turn
  /-- The host goes on where it can. -/
  host : WeaklyFair HostSystem.hostEnabled .host run turn

/-- Task `k` has a step. -/
def ParallelHost.hostEnabled (k : Nat) (h : ParallelHost) : Prop := (h.hostStep k).isSome = true

/-- The engine of core `k` has a step (R157). -/
def ParallelHost.engineEnabled (k : Nat) (h : ParallelHost) : Prop :=
  ∃ c, h.platform.cores[k]? = some c ∧ c.core.status.busy = true

/-- A fair run of a host with several cores: weakly fair to each engine (R158) and to each task (notes/assumptions/20.md). -/
structure ParallelHost.FairRun (run : Nat → ParallelHost) (turn : Nat → ParallelTurn) : Prop where
  /-- The steps are those of the system. -/
  isRun : IsRun ParallelHost.step run turn
  /-- R158, for each core. -/
  engine : ∀ k, WeaklyFair (ParallelHost.engineEnabled k) (.engine k) run turn
  /-- Each task goes on where it can. -/
  host : ∀ k, WeaklyFair (ParallelHost.hostEnabled k) (.host k) run turn

/-- The `WAIT` with the label `w` stands in a program at position `k`, and `w` stands nowhere before it. -/
def WaitAt (program : List HostLine) (k : Nat) (w : String) : Prop :=
  (program.drop k).take 3 = waitLines w ∧ labelPosition program w = some k

end Sys2Proof.Machine
end

