-- ==== Sys2Proof/Safety.lean ====
section
/-!
DEFINITION. What the spec promises of every reachable state (spec/10_state.md R37; spec/60_exceptions.md R201), and what
claims about the machine's history are said in.
-/

namespace Sys2Proof.Machine

open Sys2Proof

/-- R37 item 1: BUSY = 0 exactly when PEND = none. -/
def BusyIffPending (s : State) : Prop := s.status.busy = false ↔ s.pend = none

/-- R37 item 2: KV = 0 ⇒ KD = 0. -/
def NoModeWithoutSchedule (s : State) : Prop := s.status.kv = false → s.status.kd = false

/-- R37 item 3: ERR = 0 ⇒ ECODE = 0. -/
def NoCodeWithoutError (s : State) : Prop := s.status.err = false → s.status.ecode = 0

/-- R37 item 4: KV = 1 ⇒ RK = expand_key(KEY, KD), with KEY as it stands now. -/
def ScheduleMatchesKey (s : State) : Prop := s.status.kv = true → s.rk = expandKey s.key s.status.kd

/-- R201: an error has one of the codes 1 to 4. The codes 5, 6 and 7 are never produced. -/
def CodeIsDefined (s : State) : Prop :=
  s.status.err = true → s.status.ecode ∈ [illegalCmd, noSchedule, modeMismatch, busyWrite]

/-- What the command in flight needs of the schedule: a KEYEXP runs with no valid schedule (R153, R154), ENC with the
encryption-mode one (R155) and DEC with the decryption-mode one (R156). -/
def PendingHasItsSchedule (s : State) : Prop :=
  match s.pend with
  | none => True
  | some .keyexpE => s.status.kv = false
  | some .keyexpD => s.status.kv = false
  | some .enc => s.status.kv = true ∧ s.status.kd = false
  | some .dec => s.status.kv = true ∧ s.status.kd = true

/-- OV = 0 while an ENC or a DEC is in flight (R30). -/
def NoOutputWhileComputing (s : State) : Prop :=
  s.pend = some .enc ∨ s.pend = some .dec → s.status.ov = false

/-- The invariant of the core: what holds in every reachable state. -/
structure CoreInv (s : State) : Prop where
  /-- R37 item 1. -/
  busyIffPending : BusyIffPending s
  /-- R37 item 2. -/
  noModeWithoutSchedule : NoModeWithoutSchedule s
  /-- R37 item 3. -/
  noCodeWithoutError : NoCodeWithoutError s
  /-- R37 item 4. -/
  scheduleMatchesKey : ScheduleMatchesKey s
  /-- R201. -/
  codeIsDefined : CodeIsDefined s
  /-- R153 to R156. -/
  pendingHasItsSchedule : PendingHasItsSchedule s
  /-- R30. -/
  noOutputWhileComputing : NoOutputWhileComputing s

/-- The bytes R36 calls unspecified (DOUT, ST and RK) are the draws with the numbers that `d` gives (R59). -/
def UnspecifiedBytesAre (d : Fin 272 → Nat) (t : State) : Prop :=
  (∀ k : Fin 16, t.dout.get k = Config.anyByte (d ⟨k.val, by omega⟩)) ∧
  (∀ c r : Fin 4, cell t.st c r = Config.anyByte (d ⟨16 + 4 * c.val + r.val, by omega⟩)) ∧
  (∀ (i : Fin 15) (c r : Fin 4),
    cell (t.rk.get i) c r = Config.anyByte (d ⟨32 + 16 * i.val + 4 * c.val + r.val, by omega⟩))

/-- The bytes R36 calls unspecified are draws of the machine, each a draw of its own (R59), with numbers from `lo` up to `hi`.
Which byte is which draw is not said. -/
def UnspecifiedBytesDrawn (lo hi : Nat) (t : State) : Prop :=
  ∃ d : Fin 272 → Nat, Function.Injective d ∧ (∀ k, lo ≤ d k ∧ d k < hi) ∧ UnspecifiedBytesAre d t

/-- What two states must share to behave alike, whatever was drawn: everything but the bytes that KV and OV do not vouch for,
the answers to reads of them, and the draw counter (D16, R59). -/
structure AgreeUpToDraws (s t : State) : Prop where
  /-- KEY. -/
  key : s.key = t.key
  /-- DIN. -/
  din : s.din = t.din
  /-- STATUS. -/
  status : s.status = t.status
  /-- PEND. -/
  pend : s.pend = t.pend
  /-- The turns to come. -/
  turns : s.turns = t.turns
  /-- RK, where KV = 1. -/
  rk : s.status.kv = true → s.rk = t.rk
  /-- DOUT, where OV = 1. -/
  dout : s.status.ov = true → s.dout = t.dout

/-- The key 00 01 … 1f of the spec's examples (T-S3). -/
def exampleKey : Bytes 32 := Vector.ofFn fun k => BitVec.ofNat 8 k.val

/-- The block 00112233445566778899aabbccddeeff of the spec's examples (T-D20). -/
def exampleBlock : Bytes 16 := Vector.ofFn fun k => BitVec.ofNat 8 (0x11 * k.val)

/-- The block 8ea2b7ca516745bfeafc49904b496089 of the spec's examples (T-D20). -/
def exampleCipher : Bytes 16 :=
  #v[0x8e, 0xa2, 0xb7, 0xca, 0x51, 0x67, 0x45, 0xbf, 0xea, 0xfc, 0x49, 0x90, 0x4b, 0x49, 0x60, 0x89]

/-- The operands of a block command as they stood at its issue: what R37 item 5 speaks of. No state of the machine holds
them; a history does. -/
structure BlockIssue where
  /-- DEC rather than ENC. -/
  decrypting : Bool
  /-- DIN at the issue. -/
  din : Bytes 16
  /-- RK at the issue. -/
  rk : Schedule
  deriving DecidableEq, Repr

/-- The result of a block command on its operands (R155, R156). -/
def BlockIssue.result (b : BlockIssue) : Bytes 16 :=
  if b.decrypting then decryptBytes b.rk b.din else encryptBytes b.rk b.din

/-- A step from `s` to `s'` issued a command: BUSY went from 0 to 1 (R28). -/
def issuedBy (s s' : State) : Option Instr := if s.status.busy = false ∧ s'.status.busy = true then s'.pend else none

/-- The most recently issued block command after a step from `s` to `s'`, where it was `g` before. -/
def recordIssue (s s' : State) (g : Option BlockIssue) : Option BlockIssue :=
  match issuedBy s s' with
  | some .enc => some ⟨false, s.din, s.rk⟩
  | some .dec => some ⟨true, s.din, s.rk⟩
  | some .keyexpE => g
  | some .keyexpD => g
  | none => g

/-- R37 item 5, with what the command in flight adds: OV = 1 ⇒ DOUT is the result of the most recently issued block command on
the operands it was issued with; and while one is in flight, it is the most recent one and DIN and RK are still its operands. -/
def OutputMatchesIssue (s : State) (g : Option BlockIssue) : Prop :=
  (s.status.ov = true → ∃ b, g = some b ∧ s.dout = b.result) ∧
  (s.pend = some .enc → g = some ⟨false, s.din, s.rk⟩) ∧
  (s.pend = some .dec → g = some ⟨true, s.din, s.rk⟩)

/-- The states that a run from reset with the turns `ts` to come passes through, with the block command that was issued last
(R225: the machine is first reset; R158: the turns are any list). -/
inductive Reached : State → Option BlockIssue → Prop where
  /-- The reset state, with any turns to come. -/
  | start (ts : List Turn) : Reached { State.reset with turns := ts } none
  /-- One more step. -/
  | next {s s' : State} {g : Option BlockIssue} :
      Reached s g → step s = .next s' → Reached s' (recordIssue s s' g)

/-- `n` steps of the machine; `none` where one stops. -/
def stepsFrom : Nat → State → Option State
  | 0, s => some s
  | n + 1, s =>
    match step s with
    | .next s' => stepsFrom n s'
    | .fault _ => none
    | .refused _ => none

end Sys2Proof.Machine
end

