-- ==== Sys2Proof/Certificates/Slice0/Obligations.lean ====
section
/-!
DEFINITION. The statements for the provers. Each docstring names the rule of spec/ it formalises. The model's own fields
(`turns`, `response`, `draws`) and the free values are the model's choices: notes/assumptions/1.md to 4.md.
-/

open Sys2Proof Sys2Proof.Machine

/-! ## Command words (spec/30_encoding.md) -/

/-- R75: `Decode` gives the four commands on the four words of R73 and ILLEGAL on every other word. -/
def Obligations.DecodeIsTheFourWordTable : Prop :=
  decode 0x00000001#32 = some .keyexpE ∧ decode 0x00000005#32 = some .keyexpD ∧
  decode 0x00000002#32 = some .enc ∧ decode 0x00000003#32 = some .dec ∧
  ∀ w : BusWord, w ≠ 0x00000001#32 → w ≠ 0x00000005#32 → w ≠ 0x00000002#32 → w ≠ 0x00000003#32 → decode w = none

/-- Decode and encode agree in both directions, on words and on bytes (30_encoding.md sections 1 and 2). -/
def Obligations.DecodeAndEncodeAgree : Prop :=
  (∀ (w : BusWord) (i : Instr), decode w = some i ↔ w = encode i) ∧
  (∀ i : Instr, i.wellFormed = true ∧ splitFields (encode i) = i.fields) ∧
  (∀ f : CmdFields, f.wellFormed = true ↔ ∃ i : Instr, i.fields = f) ∧
  (∀ (i : Instr) (rest : List Byte), decodeBytes (encodeBytes i ++ rest) = some (i, rest))

/-- Which words are illegal, field by field, and what a CMD write of one does while BUSY = 0 (30_encoding.md section 2). That the refused
write ends with a normal bus response is the model's reading, notes/assumptions/17.md; the field `response` is its own, 2.md. -/
def Obligations.IllegalWordsAreRefused : Prop :=
  (∀ w : BusWord, decode w = none ↔
    w.extractLsb' 0 2 = 0b00#2 ∨
    (w.extractLsb' 0 2 = 0b10#2 ∨ w.extractLsb' 0 2 = 0b11#2) ∧ w.getLsbD 2 = true ∨
    w.extractLsb' 3 29 ≠ 0#29) ∧
  (∀ (s : State) (w : BusWord), s.status.busy = false → decode w = none →
    hostAccess (cmdAccess w) s =
      .next { s with status := { s.status with err := true, ecode := 1 }, response := .done })

/-- The host's CMD write of a word that decodes to a command runs `exec` of that command, in the state whose turn has been
taken and whose host has been answered (30_encoding.md section 1, 45_commands.md section 1; the fields `turns` and `response`
are the model's own, notes/assumptions/1.md and 2.md). -/
def Obligations.StepRunsTheDecodedCommand : Prop :=
  ∀ (s : State) (rest : List Turn) (w : BusWord) (i : Instr),
    s.turns = .host (cmdAccess w) :: rest → decode w = some i →
      step s = exec i { s with turns := rest, response := .done }

/-- What a step is: the next turn's host access, engine step or reset; with no turn to come, the engine's step
(00_scope.md R12, 20_memory.md section 4; the list of turns is the model's own, notes/assumptions/1.md). -/
def Obligations.StepTakesTheNextTurn : Prop :=
  (∀ (s : State) (a : Access) (rest : List Turn), s.turns = .host a :: rest →
    step s = hostAccess a { s with turns := rest }) ∧
  (∀ (s : State) (rest : List Turn), s.turns = .engine :: rest → step s = engineTurn { s with turns := rest }) ∧
  (∀ (s : State) (rest : List Turn), s.turns = .reset :: rest →
    step s = .next (platformReset { s with turns := rest })) ∧
  (∀ s : State, s.turns = [] → step s = engineTurn s)

/-! ## Reset (spec/10_state.md section 4, spec/70_reset_and_hazards.md section 2) -/

/-- R36: the reset table. The unspecified bytes are draws, each of its own. -/
def Obligations.ResetTable : Prop :=
  (∀ k : Fin 32, State.reset.key.get k = 0x00#8) ∧ (∀ k : Fin 16, State.reset.din.get k = 0x00#8) ∧
  UnspecifiedBytesDrawn 0 State.reset.draws State.reset ∧
  State.reset.status.word = 0x00000000#32 ∧ State.reset.pend = none ∧
  hostAccess (readAt 0x040) State.reset = .next { State.reset with response := .data 0x00000000#32 }

/-- R225: the platform's reset is one step, enabled in every state. Every register takes its reset value, the unspecified bytes
are fresh draws, and a command in flight is abandoned. -/
def Obligations.PlatformResetAbandonsEverything : Prop :=
  ∀ (s : State) (rest : List Turn), s.turns = .reset :: rest → ∃ t, step s = .next t ∧
    (∀ k : Fin 32, t.key.get k = 0x00#8) ∧ (∀ k : Fin 16, t.din.get k = 0x00#8) ∧
    UnspecifiedBytesDrawn s.draws t.draws t ∧
    t.status.word = 0x00000000#32 ∧ t.status.busy = false ∧ t.pend = none ∧
    t.response = .idle ∧ t.turns = rest

/-! ## Host accesses (spec/20_memory.md) -/

/-- R55 (with R59 for the draws): what a word read returns, register by register, and that it changes nothing. The draw
counter is the model's own. -/
def Obligations.ReadsReturnTheWindow : Prop :=
  (∀ (s : State) (j : Fin 8), hostAccess (readAt (4 * j.val)) s = .next { s with
    response := .data (busWordOf s.key[4 * j.val] s.key[4 * j.val + 1] s.key[4 * j.val + 2] s.key[4 * j.val + 3]) }) ∧
  (∀ (s : State) (j : Fin 4), hostAccess (readAt (0x020 + 4 * j.val)) s = .next { s with
    response := .data (busWordOf s.din[4 * j.val] s.din[4 * j.val + 1] s.din[4 * j.val + 2] s.din[4 * j.val + 3]) }) ∧
  (∀ s : State, hostAccess (readAt 0x044) s = .next { s with response := .data s.status.word }) ∧
  (∀ s : State, hostAccess (readAt 0x040) s = .next { s with response := .data 0x00000000#32 }) ∧
  (∀ (s : State) (j : Fin 4), s.status.busy = false → hostAccess (readAt (0x030 + 4 * j.val)) s = .next { s with
    response := .data (busWordOf s.dout[4 * j.val] s.dout[4 * j.val + 1] s.dout[4 * j.val + 2] s.dout[4 * j.val + 3]) }) ∧
  (∀ (s : State) (i : Fin 15) (c : Fin 4), s.status.busy = false →
    hostAccess (readAt (0x100 + 16 * i.val + 4 * c.val)) s = .next { s with
      response := .data (busWordOf (cell (s.rk.get i) c 0) (cell (s.rk.get i) c 1) (cell (s.rk.get i) c 2)
        (cell (s.rk.get i) c 3)) }) ∧
  (∀ (s : State) (o : Nat), s.status.busy = true →
    (∃ j : Fin 4, o = 0x030 + 4 * j.val) ∨ (∃ (i : Fin 15) (c : Fin 4), o = 0x100 + 16 * i.val + 4 * c.val) →
    ∃ (d : Fin 4 → Nat) (n : Nat), Function.Injective d ∧ (∀ k, s.draws ≤ d k ∧ d k < n) ∧
      hostAccess (readAt o) s = .next { s with
        response := .data (busWordOf (Config.anyByte (d 0)) (Config.anyByte (d 1)) (Config.anyByte (d 2))
          (Config.anyByte (d 3)))
        draws := n })

/-- R27: the fields of STATUS in the word a read returns, and that a host write to it changes nothing. -/
def Obligations.StatusWordFields : Prop :=
  (∀ f : Status, f.word.getLsbD 0 = f.busy ∧ f.word.getLsbD 1 = f.kv ∧ f.word.getLsbD 2 = f.kd ∧
    f.word.getLsbD 3 = f.ov ∧ f.word.getLsbD 4 = f.err ∧ f.word.extractLsb' 5 3 = f.ecode ∧
    f.word.extractLsb' 8 24 = 0#24) ∧
  (∀ s : State, hostAccess (readAt 0x044) s = .next { s with response := .data s.status.word }) ∧
  (∀ (s : State) (v : BusWord), hostAccess (writeAt 0x044 v) s = .next { s with response := .done }) ∧
  State.reset.status.word = 0#32

/-- R52: the bus word is little-endian, lane `k` carrying the byte at offset `4j + k`, in reads and in writes; so the first byte of the
block is bits 7:0 of the word at offset 0x020. -/
def Obligations.BusWordIsLittleEndian : Prop :=
  (∀ (s : State) (o : Nat) (v : BusWord), wordAtOffset s o = some v →
    byteAt s o = some (v.extractLsb' 0 8) ∧ byteAt s (o + 1) = some (v.extractLsb' 8 8) ∧
    byteAt s (o + 2) = some (v.extractLsb' 16 8) ∧ byteAt s (o + 3) = some (v.extractLsb' 24 8)) ∧
  (∀ (s t : State) (o : Nat) (v : BusWord), s.status.busy = false → o % 4 = 0 → o < 0x200 →
    hostAccess (readAt o) s = .next t → t.response = .data v → wordAtOffset s o = some v) ∧
  (∀ (s t : State) (o : Nat) (v : BusWord), s.status.busy = false → o % 4 = 0 → o < 0x030 →
    hostAccess (writeAt o v) s = .next t → wordAtOffset t o = some v) ∧
  (∀ (s t : State) (v : BusWord), hostAccess (readAt 0x020) s = .next t → t.response = .data v →
    s.din[0] = v.extractLsb' 0 8)

/-- R54 (and R31): a word write to KEY or DIN while BUSY = 0. -/
def Obligations.KeyAndDinWritesStoreFourBytes : Prop :=
  (∀ (s : State) (j : Fin 8) (v : BusWord), s.status.busy = false →
    ∃ key' : Bytes 32, hostAccess (writeAt (4 * j.val) v) s = .next { s with
        key := key', status := { s.status with kv := false, kd := false }, response := .done } ∧
      key'[4 * j.val] = v.extractLsb' 0 8 ∧ key'[4 * j.val + 1] = v.extractLsb' 8 8 ∧
      key'[4 * j.val + 2] = v.extractLsb' 16 8 ∧ key'[4 * j.val + 3] = v.extractLsb' 24 8 ∧
      ∀ k : Fin 32, k.val / 4 ≠ j.val → key'.get k = s.key.get k) ∧
  (∀ (s : State) (j : Fin 4) (v : BusWord), s.status.busy = false →
    ∃ din' : Bytes 16, hostAccess (writeAt (0x020 + 4 * j.val) v) s = .next { s with
        din := din', response := .done } ∧
      din'[4 * j.val] = v.extractLsb' 0 8 ∧ din'[4 * j.val + 1] = v.extractLsb' 8 8 ∧
      din'[4 * j.val + 2] = v.extractLsb' 16 8 ∧ din'[4 * j.val + 3] = v.extractLsb' 24 8 ∧
      ∀ k : Fin 16, k.val / 4 ≠ j.val → din'.get k = s.din.get k)

/-- The frame of a host write: every byte of the window outside the written word and outside STATUS reads as before, for every
aligned word write to KEY, DIN and the read-only registers (20_memory.md section 3). -/
def Obligations.HostWriteFrame : Prop :=
  ∀ (s t : State) (o : Nat) (v : BusWord), o % 4 = 0 → o < 0x200 → regionOf o ≠ .cmd →
    hostAccess (writeAt o v) s = .next t →
      t.st = s.st ∧ t.pend = s.pend ∧ t.turns = s.turns ∧ t.draws = s.draws ∧
      t.status.busy = s.status.busy ∧ t.status.ov = s.status.ov ∧
      (s.status.busy = false → t.status.err = s.status.err ∧ t.status.ecode = s.status.ecode) ∧
      (0x020 ≤ o ∨ s.status.busy = true → t.status.kv = s.status.kv ∧ t.status.kd = s.status.kd) ∧
      (∀ x : Nat, (x < o ∨ o + 4 ≤ x) → (x < 0x044 ∨ 0x048 ≤ x) → byteAt t x = byteAt s x) ∧
      (0x030 ≤ o ∨ s.status.busy = true → ∀ x : Nat, (x < 0x044 ∨ 0x048 ≤ x) → byteAt t x = byteAt s x)

/-- A host write to KEY, DIN or CMD while BUSY = 1 is dropped and recorded as BUSY_WRITE (20_memory.md section 3). Every register but ERR
and ECODE keeps its value, so the command in flight keeps its operands. That the dropped write ends with a normal bus response is the
model's reading, notes/assumptions/17.md; the field `response` is its own, 2.md. -/
def Obligations.BusyWritesAreDropped : Prop :=
  ∀ (s : State) (o : Nat) (v : BusWord), s.status.busy = true → o % 4 = 0 → o < 0x030 ∨ o = 0x040 →
    hostAccess (writeAt o v) s =
      .next { s with status := { s.status with err := true, ecode := 4 }, response := .done }

/-- R57: a host write to DOUT, STATUS or RK is ignored, whether or not BUSY = 1. -/
def Obligations.ReadOnlyWritesAreIgnored : Prop :=
  ∀ (s : State) (o : Nat) (v : BusWord), o % 4 = 0 →
    (0x030 ≤ o ∧ o < 0x040) ∨ o = 0x044 ∨ (0x100 ≤ o ∧ o < 0x1F0) →
    hostAccess (writeAt o v) s = .next { s with response := .done }

/-- R53 and R58: an access of another width, at an offset that is no multiple of 4, or at an unmapped offset gets a bus error
response (R205) and has no other effect, whatever BUSY is. -/
def Obligations.BadAccessesAnswerBusError : Prop :=
  ∀ (s : State) (a : Access),
    a.width ≠ 32 ∨ a.offset.val % 4 ≠ 0 ∨ (0x048 ≤ a.offset.val ∧ a.offset.val < 0x100) ∨ 0x1F0 ≤ a.offset.val →
    hostAccess a s = .next { s with response := .busError }

/-- What one host access is answered and what it records, in the order of priority of 60_exceptions.md section 1, with the example given
there; and the engine's step raises nothing. That a bus error is an answer of a next state is the model's reading,
notes/assumptions/2.md, and that a dropped or refused write ends with a normal bus response is too, 17.md. -/
def Obligations.HostAccessOutcomesInPriorityOrder : Prop :=
  (∀ (s : State) (a : Access), ∃ t, hostAccess a s = .next t ∧
    if a.width ≠ 32 ∨ a.offset.val % 4 ≠ 0 then t = { s with response := .busError }
    else if (0x048 ≤ a.offset.val ∧ a.offset.val < 0x100) ∨ 0x1F0 ≤ a.offset.val then t = { s with response := .busError }
    else match a.kind with
      | .read => t.status = s.status ∧ ∃ v, t.response = .data v
      | .write v =>
        t.response = .done ∧
        if (0x030 ≤ a.offset.val ∧ a.offset.val < 0x040) ∨ a.offset.val = 0x044 ∨ 0x100 ≤ a.offset.val then
          t.status = s.status
        else if s.status.busy = true then t.status = { s.status with err := true, ecode := 4 }
        else if a.offset.val < 0x030 then t.status.err = s.status.err ∧ t.status.ecode = s.status.ecode
        else match decode v with
          | none => t.status.err = true ∧ t.status.ecode = 1
          | some i =>
            if (i = .enc ∨ i = .dec) ∧ s.status.kv = false then t.status.err = true ∧ t.status.ecode = 2
            else if (i = .enc ∧ s.status.kd = true) ∨ (i = .dec ∧ s.status.kd = false) then
              t.status.err = true ∧ t.status.ecode = 3
            else t.status.err = false ∧ t.status.ecode = 0 ∧ t.pend = some i) ∧
  (∀ s : State, s.status.busy = false → s.status.kv = false → ∃ t, hostAccess (cmdAccess 0x00000006#32) s = .next t ∧
    t.status.err = true ∧ t.status.ecode = 1) ∧
  (∀ s t : State, engineTurn s = .next t → t.status.err = s.status.err ∧ t.status.ecode = s.status.ecode)

/-! ## Commands (spec/45_commands.md) -/

/-- What a CMD write does while BUSY = 0, for every word, with the checks in their order and the issue effects of each command
(45_commands.md sections 1 and 2). That a refused write ends with a normal bus response is the model's reading,
notes/assumptions/17.md; the field `response` is its own, 2.md. -/
def Obligations.IssueCommandChecksInOrder : Prop :=
  ∀ (s : State) (w : BusWord), s.status.busy = false →
    hostAccess (cmdAccess w) s = .next (
      match decode w with
      | none => { s with status := { s.status with err := true, ecode := 1 }, response := .done }
      | some .keyexpE => { s with
          pend := some .keyexpE, response := .done
          status := { busy := true, kv := false, kd := false, ov := s.status.ov, err := false, ecode := 0 } }
      | some .keyexpD => { s with
          pend := some .keyexpD, response := .done
          status := { busy := true, kv := false, kd := false, ov := s.status.ov, err := false, ecode := 0 } }
      | some .enc =>
        if s.status.kv = false then
          { s with status := { s.status with err := true, ecode := 2 }, response := .done }
        else if s.status.kd = true then
          { s with status := { s.status with err := true, ecode := 3 }, response := .done }
        else { s with
          pend := some .enc, response := .done
          status := { s.status with busy := true, ov := false, err := false, ecode := 0 } }
      | some .dec =>
        if s.status.kv = false then
          { s with status := { s.status with err := true, ecode := 2 }, response := .done }
        else if s.status.kd = false then
          { s with status := { s.status with err := true, ecode := 3 }, response := .done }
        else { s with
          pend := some .dec, response := .done
          status := { s.status with busy := true, ov := false, err := false, ecode := 0 } })

/-- R153: KEYEXP.E, its word, its issue from every state with BUSY = 0, its completion, a second issue under an unchanged key,
and the rule's example. -/
def Obligations.KeyexpEncryptionCommand : Prop :=
  decode 0x00000001#32 = some .keyexpE ∧
  (∀ s : State, s.status.busy = false → exec .keyexpE s = .next { s with
    pend := some .keyexpE
    status := { busy := true, kv := false, kd := false, ov := s.status.ov, err := false, ecode := 0 } }) ∧
  (∀ s : State, s.status.busy = true → s.pend = some .keyexpE → engineTurn s = .next { s with
    rk := expandKey s.key false, pend := none
    status := { s.status with busy := false, kv := true, kd := false } }) ∧
  (∀ s : State, s.status.busy = true →
    exec .keyexpE s = .next { s with status := { s.status with err := true, ecode := 4 } }) ∧
  (∀ s t u : State, CoreInv s → s.status.busy = false → s.status.kv = true → s.status.kd = false →
    exec .keyexpE s = .next t → engineTurn t = .next u → u.rk = s.rk) ∧
  (∀ s t : State, s.key = exampleKey → s.status.busy = true → s.pend = some .keyexpE → engineTurn s = .next t →
    hostAccess (readAt 0x120) t = .next { t with response := .data 0x9FC273A5#32 })

/-- R154: KEYEXP.D, as R153, and that RK[0] and RK[14] are those of KEYEXP.E. -/
def Obligations.KeyexpDecryptionCommand : Prop :=
  decode 0x00000005#32 = some .keyexpD ∧
  (∀ s : State, s.status.busy = false → exec .keyexpD s = .next { s with
    pend := some .keyexpD
    status := { busy := true, kv := false, kd := false, ov := s.status.ov, err := false, ecode := 0 } }) ∧
  (∀ s : State, s.status.busy = true → s.pend = some .keyexpD → engineTurn s = .next { s with
    rk := expandKey s.key true, pend := none
    status := { s.status with busy := false, kv := true, kd := true } }) ∧
  (∀ s : State, s.status.busy = true →
    exec .keyexpD s = .next { s with status := { s.status with err := true, ecode := 4 } }) ∧
  (∀ s t : State, s.status.busy = true → s.pend = some .keyexpD → engineTurn s = .next t →
    t.rk.get 0 = (expandKey s.key false).get 0 ∧ t.rk.get 14 = (expandKey s.key false).get 14) ∧
  (∀ s t : State, s.key = exampleKey → s.status.busy = true → s.pend = some .keyexpD → engineTurn s = .next t →
    t.rk.get 2 = ⟨⟨42, 40, 64, 201⟩, ⟨36, 35, 76, 192⟩, ⟨38, 36, 76, 197⟩, ⟨32, 39, 72, 196⟩⟩ ∧
    hostAccess (readAt 0x120) t = .next { t with response := .data 0xC940282A#32 })

/-- R155: ENC, its word, its issue with the encryption-mode schedule, its two refusals, its completion, a second ENC, and the
rule's example. -/
def Obligations.EncCommand : Prop :=
  decode 0x00000002#32 = some .enc ∧
  (∀ s : State, s.status.busy = false → s.status.kv = true → s.status.kd = false → exec .enc s = .next { s with
    pend := some .enc, status := { s.status with busy := true, ov := false, err := false, ecode := 0 } }) ∧
  (∀ s : State, s.status.busy = false → s.status.kv = false →
    exec .enc s = .next { s with status := { s.status with err := true, ecode := 2 } }) ∧
  (∀ s : State, s.status.busy = false → s.status.kv = true → s.status.kd = true →
    exec .enc s = .next { s with status := { s.status with err := true, ecode := 3 } }) ∧
  (∀ s : State, s.status.busy = true →
    exec .enc s = .next { s with status := { s.status with err := true, ecode := 4 } }) ∧
  (∀ s : State, s.status.busy = true → s.pend = some .enc → engineTurn s = .next { s with
    st := encryptBlock (loadState s.din) s.rk
    dout := storeState (encryptBlock (loadState s.din) s.rk)
    pend := none, status := { s.status with busy := false, ov := true } }) ∧
  (∀ s t u v : State, s.status.busy = true → s.pend = some .enc → s.status.kv = true → s.status.kd = false →
    engineTurn s = .next t → exec .enc t = .next u → engineTurn u = .next v → v.dout = t.dout) ∧
  (∀ s t : State, s.rk = expandKey exampleKey false → s.din = exampleBlock → s.status.busy = true → s.pend = some .enc →
    engineTurn s = .next t → t.dout = exampleCipher ∧
      hostAccess (readAt 0x030) t = .next { t with response := .data 0xCAB7A28E#32 })

/-- R156: DEC, as R155, with the decryption-mode schedule. -/
def Obligations.DecCommand : Prop :=
  decode 0x00000003#32 = some .dec ∧
  (∀ s : State, s.status.busy = false → s.status.kv = true → s.status.kd = true → exec .dec s = .next { s with
    pend := some .dec, status := { s.status with busy := true, ov := false, err := false, ecode := 0 } }) ∧
  (∀ s : State, s.status.busy = false → s.status.kv = false →
    exec .dec s = .next { s with status := { s.status with err := true, ecode := 2 } }) ∧
  (∀ s : State, s.status.busy = false → s.status.kv = true → s.status.kd = false →
    exec .dec s = .next { s with status := { s.status with err := true, ecode := 3 } }) ∧
  (∀ s : State, s.status.busy = true →
    exec .dec s = .next { s with status := { s.status with err := true, ecode := 4 } }) ∧
  (∀ s : State, s.status.busy = true → s.pend = some .dec → engineTurn s = .next { s with
    st := decryptBlock (loadState s.din) s.rk
    dout := storeState (decryptBlock (loadState s.din) s.rk)
    pend := none, status := { s.status with busy := false, ov := true } }) ∧
  (∀ s t u v : State, s.status.busy = true → s.pend = some .dec → s.status.kv = true → s.status.kd = true →
    engineTurn s = .next t → exec .dec t = .next u → engineTurn u = .next v → v.dout = t.dout) ∧
  (∀ s t : State, s.rk = expandKey exampleKey true → s.din = exampleCipher → s.status.busy = true → s.pend = some .dec →
    engineTurn s = .next t → t.dout = exampleBlock)

/-- The frame of the issue of all four commands: no register but STATUS and PEND, no flag but those of the command, and no byte
of the window outside STATUS (45_commands.md sections 1 and 2). -/
def Obligations.CommandIssueFrame : Prop :=
  ∀ (i : Instr) (s t : State), exec i s = .next t →
    t.key = s.key ∧ t.din = s.din ∧ t.dout = s.dout ∧ t.st = s.st ∧ t.rk = s.rk ∧
    t.turns = s.turns ∧ t.response = s.response ∧ t.draws = s.draws ∧
    (i = .keyexpE ∨ i = .keyexpD → t.status.ov = s.status.ov) ∧
    (i = .enc ∨ i = .dec → t.status.kv = s.status.kv ∧ t.status.kd = s.status.kd) ∧
    (s.status.busy = true → t.pend = s.pend) ∧
    (∀ x : Nat, (x < 0x044 ∨ 0x048 ≤ x) → byteAt t x = byteAt s x)

/-- The frame of the completion of all four commands: KEY, DIN, ERR and ECODE are never changed; a KEYEXP changes no output and a
block command no schedule; every byte of the window outside STATUS and the register it writes (RK for KEYEXP, DOUT for ENC and
DEC) reads as before (45_commands.md sections 2 and 3). -/
def Obligations.CompletionFrame : Prop :=
  ∀ (i : Instr) (s t : State), s.status.busy = true → s.pend = some i → engineTurn s = .next t →
    t.key = s.key ∧ t.din = s.din ∧ t.turns = s.turns ∧ t.response = s.response ∧ t.draws = s.draws ∧
    t.status.err = s.status.err ∧ t.status.ecode = s.status.ecode ∧
    (i = .keyexpE ∨ i = .keyexpD → t.st = s.st ∧ t.dout = s.dout ∧ t.status.ov = s.status.ov ∧
      ∀ x : Nat, x < 0x044 ∨ (0x048 ≤ x ∧ x < 0x100) ∨ 0x1F0 ≤ x → byteAt t x = byteAt s x) ∧
    (i = .enc ∨ i = .dec → t.rk = s.rk ∧ t.status.kv = s.status.kv ∧ t.status.kd = s.status.kd ∧
      ∀ x : Nat, x < 0x030 ∨ (0x040 ≤ x ∧ x < 0x044) ∨ 0x048 ≤ x → byteAt t x = byteAt s x)

/-- R157: the engine's step is enabled exactly when BUSY = 1, completes the command in PEND in one transition, and leaves PEND
none, BUSY 0, and ERR and ECODE as they were. -/
def Obligations.CompletionIsOneAtomicStep : Prop :=
  (∀ s : State, s.status.busy = false → engineTurn s = .next s) ∧
  (∀ (s : State) (i : Instr), s.status.busy = true → s.pend = some i →
    ∃ t, engineTurn s = .next t ∧ t.pend = none ∧ t.status.busy = false ∧
      t.status.err = s.status.err ∧ t.status.ecode = s.status.ecode ∧ t.key = s.key ∧ t.din = s.din ∧
      (i = .keyexpE → t.rk = expandKey s.key false ∧ t.status.kv = true ∧ t.status.kd = false) ∧
      (i = .keyexpD → t.rk = expandKey s.key true ∧ t.status.kv = true ∧ t.status.kd = true) ∧
      (i = .enc → t.st = encryptBlock (loadState s.din) s.rk ∧ t.dout = storeState t.st ∧ t.status.ov = true) ∧
      (i = .dec → t.st = decryptBlock (loadState s.din) s.rk ∧ t.dout = storeState t.st ∧ t.status.ov = true))

/-! ## Invariants and whole-machine rules (spec/10_state.md R37, spec/60_exceptions.md) -/

/-- The invariant holds at reset, whatever the turns to come (10_state.md section 4). -/
def Obligations.InvariantAtReset : Prop := ∀ ts : List Turn, CoreInv { State.reset with turns := ts }

/-- Every step keeps the invariant, from every state that meets it (10_state.md section 4). -/
def Obligations.StepKeepsInvariant : Prop := ∀ s t : State, CoreInv s → step s = .next t → CoreInv t

/-- R37: the five invariants, in every reachable state. The fifth is about the most recently issued block command, which a run records
(`Reached`); it is kept by every step, from every state that meets it with the invariant and with any record, and it holds at reset. -/
def Obligations.ReachableStatesKeepTheFiveInvariants : Prop :=
  (∀ ts : List Turn, OutputMatchesIssue { State.reset with turns := ts } none) ∧
  (∀ (s t : State) (g : Option BlockIssue), CoreInv s → OutputMatchesIssue s g → step s = .next t →
    OutputMatchesIssue t (recordIssue s t g)) ∧
  (∀ (s : State) (g : Option BlockIssue), Reached s g →
    (s.status.busy = false ↔ s.pend = none) ∧
    (s.status.kv = false → s.status.kd = false) ∧
    (s.status.err = false → s.status.ecode = 0) ∧
    (s.status.kv = true → s.rk = expandKey s.key s.status.kd) ∧
    (s.status.ov = true → ∃ b, g = some b ∧ s.dout = b.result))

/-- No state that meets the invariant stops the machine; and the only stop there is, from any state, is the engine's step with
BUSY = 1 and PEND = none, which the invariant rules out (93_implementation_defined.md section 1). -/
def Obligations.MachineNeverStops : Prop :=
  (∀ s : State, CoreInv s → ∃ t, step s = .next t) ∧
  (∀ (s : State) (f : Fault), step s = .fault f → s.status.busy = true ∧ s.pend = none) ∧
  (∀ (s : State) (r : Refusal), step s ≠ .refused r)

/-- R202: SetErr overwrites; ERR and ECODE are cleared by nothing but a CMD write made while BUSY = 0, and reset; a CMD write that is
refused sets them again in the same step; completion does not clear them. -/
def Obligations.ErrorIsClearedOnlyByCmdWriteOrReset : Prop :=
  (∀ (code : BitVec 3) (s : State),
    recordError code s = { s with status := { s.status with err := true, ecode := code } }) ∧
  (∀ s t : State, step s = .next t →
    (s.status.err = true ∧ t.status.err = false) ∨ (s.status.ecode ≠ 0 ∧ t.status.ecode = 0) →
    (s.status.busy = false ∧ ∃ (w : BusWord) (rest : List Turn), s.turns = .host (cmdAccess w) :: rest) ∨
    (∃ rest, s.turns = .reset :: rest)) ∧
  (∀ (s t : State) (w : BusWord), s.status.busy = false → hostAccess (cmdAccess w) s = .next t →
    if t.status.busy = true then t.status.err = false ∧ t.status.ecode = 0
    else t.status.err = true ∧ t.status.ecode ∈ [1#3, 2#3, 3#3]) ∧
  (∀ s t : State, engineTurn s = .next t → t.status.err = s.status.err ∧ t.status.ecode = s.status.ecode)

/-- KV and KD are cleared by a KEYEXP's issue and by an accepted KEY write, set by a KEYEXP's completion, and changed by nothing else but
reset; and every step keeps KV = 0 ⇒ KD = 0 (10_state.md section 2; that reset is one more case is the model's reading of R29 beside
R225, notes/assumptions/18.md). -/
def Obligations.ScheduleFlagsChangeOnlyByTheirRules : Prop :=
  (∀ (i : Instr) (s t : State), i = .keyexpE ∨ i = .keyexpD → s.status.busy = false → exec i s = .next t →
    t.status.kv = false ∧ t.status.kd = false) ∧
  (∀ (s t : State) (i : Instr), s.status.busy = true → s.pend = some i → i = .keyexpE ∨ i = .keyexpD →
    engineTurn s = .next t → t.status.kv = true ∧ (t.status.kd = true ↔ i = .keyexpD)) ∧
  (∀ (s t : State) (j : Fin 8) (v : BusWord), s.status.busy = false → hostAccess (writeAt (4 * j.val) v) s = .next t →
    t.status.kv = false ∧ t.status.kd = false) ∧
  (∀ s t : State, step s = .next t → t.status.kv ≠ s.status.kv ∨ t.status.kd ≠ s.status.kd →
    (s.status.busy = false ∧ ∃ (w : BusWord) (rest : List Turn), s.turns = .host (cmdAccess w) :: rest ∧
      (decode w = some .keyexpE ∨ decode w = some .keyexpD)) ∨
    (s.status.busy = true ∧ (s.pend = some .keyexpE ∨ s.pend = some .keyexpD) ∧
      (s.turns = [] ∨ ∃ rest, s.turns = .engine :: rest)) ∨
    (s.status.busy = false ∧ ∃ (j : Fin 8) (v : BusWord) (rest : List Turn), s.turns = .host (writeAt (4 * j.val) v) :: rest) ∨
    (∃ rest, s.turns = .reset :: rest)) ∧
  (∀ s t : State, step s = .next t → (s.status.kv = false → s.status.kd = false) → t.status.kv = false →
    t.status.kd = false)

/-- OV is cleared when ENC or DEC is accepted and set when it completes. KEYEXP, KEY writes, DIN writes and a refused command leave it; and
nothing but acceptance, completion and reset changes it (10_state.md section 2; that reset is one more case is the model's reading of
R30 beside R225, notes/assumptions/18.md). -/
def Obligations.OutputFlagChangesOnlyByBlockCommands : Prop :=
  (∀ (i : Instr) (s t : State), s.status.busy = false → exec i s = .next t →
    if (i = .enc ∨ i = .dec) ∧ t.status.busy = true then t.status.ov = false else t.status.ov = s.status.ov) ∧
  (∀ (i : Instr) (s t : State), s.status.busy = true → s.pend = some i → engineTurn s = .next t →
    if i = .enc ∨ i = .dec then t.status.ov = true else t.status.ov = s.status.ov) ∧
  (∀ s t : State, step s = .next t → t.status.ov ≠ s.status.ov →
    (s.status.busy = false ∧ t.status.busy = true ∧ (t.pend = some .enc ∨ t.pend = some .dec)) ∨
    (s.status.busy = true ∧ t.status.busy = false ∧ (s.pend = some .enc ∨ s.pend = some .dec)) ∨
    (∃ rest, s.turns = .reset :: rest))

/-- Each data register is written by its own rule and by nothing else but reset: KEY and DIN by the host's writes while BUSY = 0, DOUT
and ST by the completion of ENC or DEC, RK by the completion of KEYEXP (10_state.md section 1). -/
def Obligations.DataRegistersChangeOnlyByTheirRules : Prop :=
  ∀ s t : State, step s = .next t → (∀ rest, s.turns ≠ .reset :: rest) →
    (t.key ≠ s.key → s.status.busy = false ∧ ∃ (j : Fin 8) (v : BusWord) (rest : List Turn),
      s.turns = .host (writeAt (4 * j.val) v) :: rest) ∧
    (t.din ≠ s.din → s.status.busy = false ∧ ∃ (j : Fin 4) (v : BusWord) (rest : List Turn),
      s.turns = .host (writeAt (0x020 + 4 * j.val) v) :: rest) ∧
    (t.dout ≠ s.dout ∨ t.st ≠ s.st → s.status.busy = true ∧ (s.pend = some .enc ∨ s.pend = some .dec) ∧
      (s.turns = [] ∨ ∃ rest, s.turns = .engine :: rest)) ∧
    (t.rk ≠ s.rk → s.status.busy = true ∧ (s.pend = some .keyexpE ∨ s.pend = some .keyexpD) ∧
      (s.turns = [] ∨ ∃ rest, s.turns = .engine :: rest))

/-- A command in flight keeps its operands: while BUSY = 1 no step but its completion and reset changes KEY, DIN, RK or PEND
(20_memory.md section 4). -/
def Obligations.OperandsAreFrozenWhileBusy : Prop :=
  ∀ s t : State, s.status.busy = true → step s = .next t → t.status.busy = true →
    t.key = s.key ∧ t.din = s.din ∧ t.rk = s.rk ∧ t.pend = s.pend ∧ t.dout = s.dout ∧ t.st = s.st

/-- Every accepted command completes with the operands it was issued with, whatever the host does in between, unless the platform
resets the core (45_commands.md section 3, 20_memory.md section 4): within one step more than there are turns to come (that a core with
no turn left completes is the model's form of weak fairness, notes/assumptions/1.md); in every fair run of a core with its host; and on
every core of a fair run with several. And a host polling loop on BUSY ends, in every fair run, from any state of the core, resets or
not (that a fair run is fair to the host too is the model's reading, notes/assumptions/20.md). -/
def Obligations.AcceptedCommandsComplete : Prop :=
  (∀ (s : State) (i : Instr), s.status.busy = true → s.pend = some i → Turn.reset ∉ s.turns →
    ∃ (n : Nat) (t : State), n ≤ s.turns.length + 1 ∧ stepsFrom n s = some t ∧ t.status.busy = false ∧ t.pend = none ∧
      t.key = s.key ∧ t.din = s.din ∧
      (i = .keyexpE → t.status.kv = true ∧ t.status.kd = false ∧ t.rk = expandKey s.key false) ∧
      (i = .keyexpD → t.status.kv = true ∧ t.status.kd = true ∧ t.rk = expandKey s.key true) ∧
      (i = .enc → t.status.ov = true ∧ t.dout = encryptBytes s.rk s.din) ∧
      (i = .dec → t.status.ov = true ∧ t.dout = decryptBytes s.rk s.din)) ∧
  (∀ (run : Nat → HostSystem) (turn : Nat → HostTurn) (n : Nat) (i : Instr), HostSystem.FairRun run turn →
    (run n).core.status.busy = true → (run n).core.pend = some i → (∀ m, n ≤ m → turn m ≠ .reset) →
    ∃ m, n ≤ m ∧ turn m = .engine ∧ (run m).core.key = (run n).core.key ∧ (run m).core.din = (run n).core.din ∧
      (run m).core.rk = (run n).core.rk ∧ (run (m + 1)).core = completion i (run m).core) ∧
  (∀ (run : Nat → ParallelHost) (turn : Nat → ParallelTurn) (n k : Nat) (c : CoreInstance), ParallelHost.FairRun run turn →
    (run n).platform.cores[k]? = some c → c.core.status.busy = true →
    ∃ m d, n ≤ m ∧ (run m).platform.cores[k]? = some d ∧ d.core.status.busy = false) ∧
  (∀ (run : Nat → HostSystem) (turn : Nat → HostTurn) (n k : Nat) (w : String), HostSystem.FairRun run turn →
    WaitAt (run n).task.program k w → (run n).task.position = k →
    ∃ m v, n ≤ m ∧ (run m).task.position = k + 3 ∧ nameValue (run m).task.names "s" = some v ∧ v.getLsbD 0 = false)

/-- Both outcomes of a DIN write right after a command was issued (P3 line 10): taken before the completion it is dropped and
recorded, and the record survives the completion; taken after it, it is stored (45_commands.md section 3, 20_memory.md section 3). -/
def Obligations.WriteAndCompletionRaceEitherWay : Prop :=
  ∀ (s : State) (i : Instr) (j : Fin 4) (v : BusWord) (rest : List Turn), s.status.busy = true → s.pend = some i →
    (∃ t, stepsFrom 2 { s with turns := .host (writeAt (0x020 + 4 * j.val) v) :: .engine :: rest } = some t ∧
      t.status.busy = false ∧ t.din = s.din ∧ t.status.err = true ∧ t.status.ecode = 4) ∧
    (∃ t, stepsFrom 2 { s with turns := .engine :: .host (writeAt (0x020 + 4 * j.val) v) :: rest } = some t ∧
      t.status.busy = false ∧ t.din = putWord s.din (4 * j.val) v ∧
      t.status.err = s.status.err ∧ t.status.ecode = s.status.ecode)

/-- R160: the result of every command is a function of KEY, DIN and RK at its issue alone: two states that share them and accept the
same command complete it with the same results, whatever else differs between them, the draws among it, and whatever the host does
before the completion (a state with the command in flight and the same operands completes with those results too). And the only
draws are those of R59. -/
def Obligations.ResultsDependOnOperandsAlone : Prop :=
  (∀ (s₁ s₂ t₁ t₂ : State) (i : Instr), s₁.status.busy = true → s₂.status.busy = true → s₁.pend = some i → s₂.pend = some i →
    s₁.key = s₂.key → s₁.din = s₂.din → s₁.rk = s₂.rk → engineTurn s₁ = .next t₁ → engineTurn s₂ = .next t₂ →
      (i = .keyexpE ∨ i = .keyexpD → t₁.rk = t₂.rk) ∧ (i = .enc ∨ i = .dec → t₁.st = t₂.st ∧ t₁.dout = t₂.dout)) ∧
  (∀ (s₁ s₂ u₁ u₂ t₁ t₂ : State) (i : Instr), s₁.key = s₂.key → s₁.din = s₂.din → s₁.rk = s₂.rk →
    s₁.status.busy = false → s₂.status.busy = false → exec i s₁ = .next u₁ → exec i s₂ = .next u₂ →
    u₁.status.busy = true → u₂.status.busy = true → engineTurn u₁ = .next t₁ → engineTurn u₂ = .next t₂ →
      (i = .keyexpE ∨ i = .keyexpD → t₁.rk = t₂.rk) ∧ (i = .enc ∨ i = .dec → t₁.st = t₂.st ∧ t₁.dout = t₂.dout)) ∧
  (∀ s u : State, s.status.busy = true → step s = .next u → u.status.busy = true →
    u.pend = s.pend ∧ u.key = s.key ∧ u.din = s.din ∧ u.rk = s.rk) ∧
  (∀ s t : State, step s = .next t → t.draws ≠ s.draws →
    (∃ rest, s.turns = .reset :: rest) ∨
    (s.status.busy = true ∧ ∃ (o : Fin 512) (rest : List Turn), s.turns = .host ⟨.read, o, 32⟩ :: rest ∧
      (regionOf o.val = .dout ∨ regionOf o.val = .rk)))

/-- Draws never reach anything that KV or OV vouches for: two states that meet the invariant and agree on all but the bytes KV and OV do
not vouch for go on agreeing, step by step (00_scope.md R6, 10_state.md section 4, 20_memory.md section 3). -/
def Obligations.DrawsNeverReachAVouchedResult : Prop :=
  ∀ s t s' : State, CoreInv s → CoreInv t → AgreeUpToDraws s t → step s = .next s' →
    ∃ t', step t = .next t' ∧ AgreeUpToDraws s' t'

/-- No draw is used twice: every draw a step takes has a number from the counter on and below where the step moves the counter. A read
of DOUT or RK while BUSY = 1 takes four, each its own, and reset takes 272, each its own; no other step takes any or moves the counter
(20_memory.md section 3; the counter is the model's own, notes/assumptions/3.md). -/
def Obligations.DrawsAreNeverUsedTwice : Prop :=
  (∀ s t : State, step s = .next t → s.draws ≤ t.draws ∧
    (t.draws ≠ s.draws →
      (∃ rest, s.turns = .reset :: rest) ∨
      (s.status.busy = true ∧ ∃ (o : Fin 512) (rest : List Turn), s.turns = .host ⟨.read, o, 32⟩ :: rest ∧
        o.val % 4 = 0 ∧ (regionOf o.val = .dout ∨ regionOf o.val = .rk)))) ∧
  (∀ (s : State) (o : Fin 512) (rest : List Turn), s.status.busy = true → s.turns = .host ⟨.read, o, 32⟩ :: rest →
    o.val % 4 = 0 → regionOf o.val = .dout ∨ regionOf o.val = .rk →
    ∃ (t : State) (d : Fin 4 → Nat), step s = .next t ∧ Function.Injective d ∧
      (∀ k, s.draws ≤ d k ∧ d k < t.draws) ∧
      t.response = .data (busWordOf (Config.anyByte (d 0)) (Config.anyByte (d 1)) (Config.anyByte (d 2))
        (Config.anyByte (d 3)))) ∧
  (∀ (s : State) (rest : List Turn), s.turns = .reset :: rest →
    ∃ t, step s = .next t ∧ UnspecifiedBytesDrawn s.draws t.draws t)

/-- R221: after a KEY write RK is what it was and KV = 0; from there ENC and DEC are refused with NO_SCHEDULE until a KEYEXP completes; so
the core never encrypts under a schedule that does not match KEY. -/
def Obligations.StaleScheduleIsNeverUsed : Prop :=
  (∀ (s t : State) (j : Fin 8) (v : BusWord), s.status.busy = false → hostAccess (writeAt (4 * j.val) v) s = .next t →
    t.rk = s.rk ∧ t.status.kv = false) ∧
  (∀ (s : State) (i : Instr), i = .enc ∨ i = .dec → s.status.busy = false → s.status.kv = false →
    exec i s = .next { s with status := { s.status with err := true, ecode := 2 } }) ∧
  (∀ s t : State, s.status.kv = false → step s = .next t → t.status.kv = true →
    s.status.busy = true ∧ (s.pend = some .keyexpE ∨ s.pend = some .keyexpD)) ∧
  (∀ s : State, CoreInv s → (s.pend = some .enc → s.rk = expandKey s.key false) ∧
    (s.pend = some .dec → s.rk = expandKey s.key true))

/-! ## The cipher (spec/10_state.md R24, spec/40 to 44) -/

/-- R24: the block bytes in the matrix, both ways, and that loading and storing undo each other. -/
def Obligations.BlockLayoutIsColumnMajor : Prop :=
  (∀ (b : Bytes 16) (c r : Fin 4), cell (loadState b) c r = b[4 * c.val + r.val]) ∧
  (∀ (m : Matrix4) (c r : Fin 4), (storeState m)[4 * c.val + r.val] = cell m c r) ∧
  (∀ m : Matrix4, loadState (storeState m) = m) ∧ (∀ b : Bytes 16, storeState (loadState b) = b)

/-- R101: multiplication by x, with the rule's corner cases and its example. -/
def Obligations.XtimeIsMultiplicationByX : Prop :=
  (∀ a : Byte, xtime a = if a.getLsbD 7 = true then (a <<< 1) ^^^ 0x1B#8 else a <<< 1) ∧
  xtime 0x00 = 0x00 ∧ xtime 0x80 = 0x1B ∧ xtime 0xFF = 0xE5 ∧ xtime 0x8D = 0x01 ∧ xtime 0x57 = 0xAE

/-- R102: the multiplier adds up `a` times x^i over the bits `i` of `b`, for every pair of bytes, with the rule's corner cases and its
example. -/
def Obligations.MultiplierIsShiftAndReduce : Prop :=
  (∀ a b : Byte, gmul a b = ((List.range 8).map fun i => if b.getLsbD i then xtime^[i] a else 0).foldl (· ^^^ ·) 0) ∧
  (∀ a : Byte, gmul a 0x00 = 0x00 ∧ gmul 0x00 a = 0x00 ∧ gmul a 0x01 = a) ∧ (∀ a b : Byte, gmul a b = gmul b a) ∧
  gmul 0xFF 0xFF = 0x13 ∧ gmul 0x53 0xCA = 0x01 ∧ gmul 0x57 0x83 = 0xC1

/-- R105: the field laws of the multiplier. -/
def Obligations.MultiplierFieldLaws : Prop :=
  (∀ a b c : Byte, gmul (gmul a b) c = gmul a (gmul b c)) ∧ (∀ a b : Byte, gmul a b = gmul b a) ∧
  (∀ a b c : Byte, gmul a (b ^^^ c) = gmul a b ^^^ gmul a c) ∧
  (∀ a b c : Byte, gmul (a ^^^ b) c = gmul a c ^^^ gmul b c) ∧
  (∀ a : Byte, gmul a 0x01 = a) ∧ (∀ a : Byte, a ≠ 0 → ∃! b : Byte, gmul a b = 0x01)

/-- R103: the constant multipliers, for every byte, with the rule's corner cases. -/
def Obligations.ConstantMultipliers : Prop :=
  (∀ a : Byte, gmul a 1 = a ∧ gmul a 2 = xtime a ∧ gmul a 3 = xtime a ^^^ a ∧
    gmul a 9 = xtime (xtime (xtime a)) ^^^ a ∧
    gmul a 11 = xtime (xtime (xtime a)) ^^^ xtime a ^^^ a ∧
    gmul a 13 = xtime (xtime (xtime a)) ^^^ xtime (xtime a) ^^^ a ∧
    gmul a 14 = xtime (xtime (xtime a)) ^^^ xtime (xtime a) ^^^ xtime a) ∧
  gmul 0xFF 9 = 0x46 ∧ gmul 0xFF 11 = 0xA3 ∧ gmul 0xFF 13 = 0x97 ∧ gmul 0xFF 14 = 0x8D ∧ gmul 0x80 3 = 0x9B

/-- R111: the table of R110 is the affine image of the field inverse, and the inverse is what the rule says. -/
def Obligations.SboxIsAffineOfInverse : Prop :=
  (∀ x : Byte, sbox x = affine (gfInverse x)) ∧ gfInverse 0 = 0 ∧
  (∀ x y : Byte, x ≠ 0 → (gmul x y = 0x01 ↔ y = gfInverse x)) ∧
  (∀ (b : Byte) (i : Fin 8), (affine b).getLsbD i.val =
    (b.getLsbD i.val ^^ b.getLsbD ((i.val + 4) % 8) ^^ b.getLsbD ((i.val + 5) % 8) ^^ b.getLsbD ((i.val + 6) % 8)
      ^^ b.getLsbD ((i.val + 7) % 8) ^^ (0x63#8).getLsbD i.val))

/-- R113, R115 and R116: the substitutions, byte by byte, with the rules' corner cases and examples, and that they are mutual
inverses. -/
def Obligations.SubstitutionsAreInverse : Prop :=
  (∀ (m : Matrix4) (c r : Fin 4), cell (subBytes m) c r = sbox (cell m c r)) ∧
  (∀ (m : Matrix4) (c r : Fin 4), cell (invSubBytes m) c r = invSbox (cell m c r)) ∧
  (∀ x : Byte, sbox x ≠ x) ∧ (∀ (m : Matrix4) (c r : Fin 4), cell (subBytes m) c r ≠ cell m c r) ∧
  invSbox 0x63 = 0x00 ∧ invSbox 0x00 = 0x52 ∧
  (storeState (subBytes (loadState (Vector.ofFn fun k => BitVec.ofNat 8 k.val)))).toList =
    [0x63, 0x7c, 0x77, 0x7b, 0xf2, 0x6b, 0x6f, 0xc5, 0x30, 0x01, 0x67, 0x2b, 0xfe, 0xd7, 0xab, 0x76] ∧
  (storeState (invSubBytes (loadState (Vector.ofFn fun k => BitVec.ofNat 8 k.val)))).toList =
    [0x52, 0x09, 0x6a, 0xd5, 0x30, 0x36, 0xa5, 0x38, 0xbf, 0x40, 0xa3, 0x9e, 0x81, 0xf3, 0xd7, 0xfb] ∧
  (∀ x : Byte, invSbox (sbox x) = x) ∧ (∀ m : Matrix4, invSubBytes (subBytes m) = m) ∧
  (∀ m : Matrix4, subBytes (invSubBytes m) = m)

/-- R122 (and R120, R121): the row permutations, cell by cell, their inverses, and the fourth power. -/
def Obligations.RowShiftsAreInverse : Prop :=
  (∀ (m : Matrix4) (c r : Fin 4), cell (shiftRows m) c r = cell m (c + r) r) ∧
  (∀ (m : Matrix4) (c r : Fin 4), cell (invShiftRows m) c r = cell m (c - r) r) ∧
  (∀ m : Matrix4, invShiftRows (shiftRows m) = m) ∧ (∀ m : Matrix4, shiftRows (invShiftRows m) = m) ∧
  (∀ m : Matrix4, shiftRows (shiftRows (shiftRows (shiftRows m))) = m)

/-- R123 and R124: the two column mixings, row by row, with the rules' corner cases and examples. -/
def Obligations.ColumnMixingsMultiplyByTheMatrices : Prop :=
  (∀ (m : Matrix4) (c : Fin 4),
    cell (mixColumns m) c 0 = gmul (cell m c 0) 2 ^^^ gmul (cell m c 1) 3 ^^^ cell m c 2 ^^^ cell m c 3 ∧
    cell (mixColumns m) c 1 = cell m c 0 ^^^ gmul (cell m c 1) 2 ^^^ gmul (cell m c 2) 3 ^^^ cell m c 3 ∧
    cell (mixColumns m) c 2 = cell m c 0 ^^^ cell m c 1 ^^^ gmul (cell m c 2) 2 ^^^ gmul (cell m c 3) 3 ∧
    cell (mixColumns m) c 3 = gmul (cell m c 0) 3 ^^^ cell m c 1 ^^^ cell m c 2 ^^^ gmul (cell m c 3) 2) ∧
  (∀ (m : Matrix4) (c : Fin 4),
    cell (invMixColumns m) c 0 = gmul (cell m c 0) 14 ^^^ gmul (cell m c 1) 11 ^^^ gmul (cell m c 2) 13 ^^^ gmul (cell m c 3) 9 ∧
    cell (invMixColumns m) c 1 = gmul (cell m c 0) 9 ^^^ gmul (cell m c 1) 14 ^^^ gmul (cell m c 2) 11 ^^^ gmul (cell m c 3) 13 ∧
    cell (invMixColumns m) c 2 = gmul (cell m c 0) 13 ^^^ gmul (cell m c 1) 9 ^^^ gmul (cell m c 2) 14 ^^^ gmul (cell m c 3) 11 ∧
    cell (invMixColumns m) c 3 = gmul (cell m c 0) 11 ^^^ gmul (cell m c 1) 13 ^^^ gmul (cell m c 2) 9 ^^^ gmul (cell m c 3) 14) ∧
  (∀ (m : Matrix4) (c : Fin 4) (b : Byte), columnOf m c = ⟨b, b, b, b⟩ →
    columnOf (mixColumns m) c = ⟨b, b, b, b⟩ ∧ columnOf (invMixColumns m) c = ⟨b, b, b, b⟩) ∧
  columnOf (mixColumns ⟨⟨0x01, 0, 0, 0⟩, ⟨0x80, 0, 0, 0⟩, default, default⟩) 0 = ⟨0x02, 0x01, 0x01, 0x03⟩ ∧
  columnOf (mixColumns ⟨⟨0x01, 0, 0, 0⟩, ⟨0x80, 0, 0, 0⟩, default, default⟩) 1 = ⟨0x1b, 0x80, 0x80, 0x9b⟩ ∧
  columnOf (mixColumns ⟨⟨0xdb, 0x13, 0x53, 0x45⟩, ⟨0xf2, 0x0a, 0x22, 0x5c⟩, default, default⟩) 0 = ⟨0x8e, 0x4d, 0xa1, 0xbc⟩ ∧
  columnOf (mixColumns ⟨⟨0xdb, 0x13, 0x53, 0x45⟩, ⟨0xf2, 0x0a, 0x22, 0x5c⟩, default, default⟩) 1 = ⟨0x9f, 0xdc, 0x58, 0x9d⟩ ∧
  columnOf (invMixColumns ⟨⟨0x01, 0, 0, 0⟩, default, default, default⟩) 0 = ⟨0x0e, 0x09, 0x0d, 0x0b⟩ ∧
  columnOf (invMixColumns ⟨⟨0xdb, 0x13, 0x53, 0x45⟩, ⟨0x8e, 0x4d, 0xa1, 0xbc⟩, default, default⟩) 0 = ⟨0x32, 0xa4, 0x1d, 0x55⟩ ∧
  columnOf (invMixColumns ⟨⟨0xdb, 0x13, 0x53, 0x45⟩, ⟨0x8e, 0x4d, 0xa1, 0xbc⟩, default, default⟩) 1 = ⟨0xdb, 0x13, 0x53, 0x45⟩

/-- R125: the column mixings are mutual inverses, and linear over XOR. -/
def Obligations.ColumnMixingsAreInverseAndLinear : Prop :=
  (∀ m : Matrix4, invMixColumns (mixColumns m) = m) ∧ (∀ m : Matrix4, mixColumns (invMixColumns m) = m) ∧
  (∀ m n : Matrix4, mixColumns (addRoundKey m n) = addRoundKey (mixColumns m) (mixColumns n)) ∧
  (∀ m n : Matrix4, invMixColumns (addRoundKey m n) = addRoundKey (invMixColumns m) (invMixColumns n))

/-- R131: the seven round constants, and that no other is read: whatever table `rc` has these seven, 60 words that begin with the key
and satisfy the recurrence of R132 with `rc` are the expansion of the key. -/
def Obligations.RoundConstantsDouble : Prop :=
  rcon 1 = 0x01 ∧ (∀ j : Nat, 1 ≤ j → j < 7 → rcon (j + 1) = xtime (rcon j)) ∧
  [rcon 1, rcon 2, rcon 3, rcon 4, rcon 5, rcon 6, rcon 7] = [0x01, 0x02, 0x04, 0x08, 0x10, 0x20, 0x40] ∧
  (∀ (rc : Nat → Byte) (key : Bytes 32) (ws : List Column),
    (∀ j : Nat, 1 ≤ j → j ≤ 7 → rc j = rcon j) → ws.length = 60 → (∀ j : Fin 8, wordAt ws j.val = keyWord key j) →
    (∀ i : Nat, i < 60 → 8 ≤ i → wordAt ws i = xorWord (wordAt ws (i - 8))
      (if i % 8 = 0 then xorWord (subWord (rotWord (wordAt ws (i - 1)))) ⟨rc (i / 8), 0, 0, 0⟩
        else if i % 8 = 4 then subWord (wordAt ws (i - 1)) else wordAt ws (i - 1))) →
    ws = expandWords key)

/-- R132: the 60 words satisfy the recurrence. -/
def Obligations.KeyExpansionRecurrence : Prop :=
  ∀ key : Bytes 32, (expandWords key).length = 60 ∧
    (∀ j : Fin 8, wordAt (expandWords key) j.val =
      ⟨key[4 * j.val], key[4 * j.val + 1], key[4 * j.val + 2], key[4 * j.val + 3]⟩) ∧
    (∀ i : Nat, 8 ≤ i → i < 60 →
      let w := wordAt (expandWords key)
      (i % 8 = 0 → w i = xorWord (w (i - 8)) (xorWord (subWord (rotWord (w (i - 1)))) ⟨rcon (i / 8), 0, 0, 0⟩)) ∧
      (i % 8 = 4 → w i = xorWord (w (i - 8)) (subWord (w (i - 1)))) ∧
      (i % 8 ≠ 0 → i % 8 ≠ 4 → w i = xorWord (w (i - 8)) (w (i - 1))))

/-- R134, R135 and R136: the round keys are the words in fours, and the decryption-mode schedule is the encryption-mode one with
InvMixColumns on the keys 1 to 13. -/
def Obligations.ScheduleModesDifferByInvMixColumns : Prop :=
  ∀ key : Bytes 32,
    (∀ (i : Fin 15) (c : Fin 4), columnOf ((expandKey key false).get i) c = wordAt (expandWords key) (4 * i.val + c.val)) ∧
    (∀ c r : Fin 4, cell ((expandKey key false).get 0) c r = key[4 * c.val + r.val] ∧
      cell ((expandKey key false).get 1) c r = key[16 + 4 * c.val + r.val]) ∧
    (expandKey key true).get 0 = (expandKey key false).get 0 ∧
    (expandKey key true).get 14 = (expandKey key false).get 14 ∧
    (∀ i : Fin 15, 1 ≤ i.val → i.val ≤ 13 → (expandKey key true).get i = invMixColumns ((expandKey key false).get i))

/-- R140: AddRoundKey, cell by cell, its own inverse, with the rule's corner cases and its example. -/
def Obligations.AddRoundKeyIsAnInvolution : Prop :=
  (∀ (m k : Matrix4) (c r : Fin 4), cell (addRoundKey m k) c r = cell m c r ^^^ cell k c r) ∧
  (∀ m k : Matrix4, addRoundKey (addRoundKey m k) k = m) ∧
  (∀ m k : Matrix4, (∀ c r, cell k c r = 0) → addRoundKey m k = m) ∧
  (∀ (m : Matrix4) (c r : Fin 4), cell (addRoundKey m m) c r = 0) ∧
  (∀ k : Fin 16, (storeState (addRoundKey (loadState (Vector.ofFn fun j => BitVec.ofNat 8 j.val))
    (loadState (Vector.replicate 16 0xFF#8)))).get k = BitVec.ofNat 8 (0xFF - k.val))

/-- R143: the rounds of both pipelines and the round key each one uses. `x 0` is the matrix after the initial round, `x n` the matrix
after `n` full rounds. -/
def Obligations.RoundsUseTheirKeysInOrder : Prop :=
  (∀ (m : Matrix4) (rk : Schedule) (x : Nat → Matrix4), x 0 = addRoundKey m (rk.get 0) →
    (∀ i : Fin 15, 1 ≤ i.val → i.val ≤ 13 →
      x i.val = addRoundKey (mixColumns (shiftRows (subBytes (x (i.val - 1))))) (rk.get i)) →
    encryptBlock m rk = addRoundKey (shiftRows (subBytes (x 13))) (rk.get 14)) ∧
  (∀ (m : Matrix4) (dk : Schedule) (x : Nat → Matrix4), x 0 = addRoundKey m (dk.get 14) →
    (∀ i : Fin 15, 1 ≤ i.val → i.val ≤ 13 →
      x (14 - i.val) = addRoundKey (invMixColumns (invShiftRows (invSubBytes (x (13 - i.val))))) (dk.get i)) →
    decryptBlock m dk = addRoundKey (invShiftRows (invSubBytes (x 13))) (dk.get 0))

/-- For a fixed schedule, whatever it is, each pipeline is a bijection on matrices (44_round_pipeline.md, the corner cases of the two
pipelines). -/
def Obligations.PipelinesAreBijections : Prop :=
  ∀ rk : Schedule, Function.Bijective (fun m => encryptBlock m rk) ∧ Function.Bijective (fun m => decryptBlock m rk)

/-- R144: for every key, decryption under its decryption-mode schedule undoes encryption under its encryption-mode schedule, and the
other way round. -/
def Obligations.DecryptionInvertsEncryption : Prop :=
  ∀ (key : Bytes 32) (m : Matrix4),
    decryptBlock (encryptBlock m (expandKey key false)) (expandKey key true) = m ∧
    encryptBlock (decryptBlock m (expandKey key true)) (expandKey key false) = m

/-! ## Around the core (spec/46_host_block_processor.md, spec/60_exceptions.md section 4) -/

/-- R171: the key mapping copies the first 32 bytes of the UTF-8 encoding and fills with zeros, with the rule's examples. -/
def Obligations.KeyMappingTruncatesOrZeroFills : Prop :=
  (∀ (t : String) (k : Fin 32), (keyFromString t).get k =
    if h : k.val < (utf8Bytes t).length then (utf8Bytes t)[k.val] else 0x00#8) ∧
  (∀ k : Fin 32, (keyFromString "").get k = 0x00#8) ∧
  keyFromString "01234567890123456789012345678901" =
    #v[48, 49, 50, 51, 52, 53, 54, 55, 56, 57, 48, 49, 50, 51, 52, 53, 54, 55, 56, 57, 48, 49, 50, 51, 52, 53, 54, 55, 56, 57, 48, 49] ∧
  keyFromString "abc" =
    #v[0x61, 0x62, 0x63, 0, 0, 0, 0, 0, 0, 0, 0, 0, 0, 0, 0, 0, 0, 0, 0, 0, 0, 0, 0, 0, 0, 0, 0, 0, 0, 0, 0, 0]

/-- How many bytes the two stream functions return, for an input of `16k + r` bytes (46_host_block_processor.md, the corner cases of
the two streams). -/
def Obligations.StreamLengths : Prop :=
  ∀ (p : List Byte) (key : Bytes 32) (k r : Nat), p.length = 16 * k + r → r < 16 →
    (encryptBlockStream p key).length = (if r < 8 then 16 * (k + 1) else 16 * (k + 2)) ∧
    (decryptBlockStream p key).length = (if r < 8 then 16 * k else 16 * (k + 1))

/-- R174: decrypting an encrypted stream gives the input back, followed by padding bytes: sixteen of them where the length is a positive
multiple of 16, and in every other case nothing but padding bytes. -/
def Obligations.StreamRoundTrip : Prop :=
  ∀ (p : List Byte) (key : Bytes 32),
    (p.length % 16 = 0 → 0 < p.length →
      decryptBlockStream (encryptBlockStream p key) key = p ++ List.replicate 16 0x80#8) ∧
    (∃ n : Nat, decryptBlockStream (encryptBlockStream p key) key = p ++ List.replicate n 0x80#8)

/-- Instances share nothing (60_exceptions.md section 4, 20_memory.md section 1). On a platform whose windows are aligned and apart, an
access at an address of one core's window is that core's own access at the address's offset; a core's engine completes its command
and a core's reset resets it; and each of these leaves every other core's whole state as it is. Two engines may finish in either
order, with one outcome. After reset the unspecified bytes of all cores are draws, no two of them the same draw. (How a platform and
the numbering of its draws are written down is the model's own, notes/assumptions/13.md.) -/
def Obligations.InstancesShareNothing : Prop :=
  (∀ (p : Platform) (k : Nat) (c : CoreInstance) (kind : AccessKind) (o width : Nat), p.wellFormed = true →
    p.cores[k]? = some c → o < 512 → ∃ t,
      coreTurn (.host ⟨kind, windowOffset o, width⟩) { c.core with draws := p.draws } = some t ∧
      p.access kind width (c.base + o) = some { cores := p.cores.set k { c with core := t }, draws := t.draws }) ∧
  (∀ (p : Platform) (k : Nat) (c : CoreInstance) (i : Instr), p.cores[k]? = some c → c.core.status.busy = true →
    c.core.pend = some i → p.engineStep k = some { p with
      cores := p.cores.set k { c with core := completion i { c.core with draws := p.draws } } }) ∧
  (∀ (p : Platform) (k : Nat) (c : CoreInstance), p.cores[k]? = some c → p.resetStep k = some {
      cores := p.cores.set k { c with core := { State.resetFrom p.draws with turns := c.core.turns } }
      draws := p.draws + resetDraws }) ∧
  (∀ (p q : Platform) (k : Nat) (t : Turn), p.turn k t = some q → ∀ j, j ≠ k → q.cores[j]? = p.cores[j]?) ∧
  (∀ (p : Platform) (j k : Nat), j ≠ k →
    (p.engineStep j).bind (Platform.engineStep k) = (p.engineStep k).bind (Platform.engineStep j)) ∧
  (∀ bases : List Nat, ∃ d : Nat → Fin 272 → Nat,
    (∀ (j k : Nat) (a b : Fin 272), d j a = d k b → j = k ∧ a = b) ∧
    ∀ (k : Nat) (c : CoreInstance), (Platform.afterReset bases).cores[k]? = some c →
      UnspecifiedBytesAre (d k) c.core ∧ ∀ a, d k a < (Platform.afterReset bases).draws)
end

