-- ==== Sys2Proof/Laws/State.lean ====
section
/-!
SUPPORT. The small lemmas of the state records: one for each field of each update, true by `rfl` and tagged `@[simp]`, so that
no later proof unfolds a record update.
-/

namespace Sys2Proof.Machine

open Sys2Proof

/-! ## The updates of STATUS -/

@[simp] theorem Status.withError_busy (f : Status) (code : BitVec 3) : (f.withError code).busy = f.busy := rfl
@[simp] theorem Status.withError_kv (f : Status) (code : BitVec 3) : (f.withError code).kv = f.kv := rfl
@[simp] theorem Status.withError_kd (f : Status) (code : BitVec 3) : (f.withError code).kd = f.kd := rfl
@[simp] theorem Status.withError_ov (f : Status) (code : BitVec 3) : (f.withError code).ov = f.ov := rfl
@[simp] theorem Status.withError_err (f : Status) (code : BitVec 3) : (f.withError code).err = true := rfl
@[simp] theorem Status.withError_ecode (f : Status) (code : BitVec 3) : (f.withError code).ecode = code := rfl

@[simp] theorem Status.withoutError_busy (f : Status) : (f.withoutError).busy = f.busy := rfl
@[simp] theorem Status.withoutError_kv (f : Status) : (f.withoutError).kv = f.kv := rfl
@[simp] theorem Status.withoutError_kd (f : Status) : (f.withoutError).kd = f.kd := rfl
@[simp] theorem Status.withoutError_ov (f : Status) : (f.withoutError).ov = f.ov := rfl
@[simp] theorem Status.withoutError_err (f : Status) : (f.withoutError).err = false := rfl
@[simp] theorem Status.withoutError_ecode (f : Status) : (f.withoutError).ecode = 0 := rfl

@[simp] theorem Status.scheduleInvalid_busy (f : Status) : (f.scheduleInvalid).busy = f.busy := rfl
@[simp] theorem Status.scheduleInvalid_kv (f : Status) : (f.scheduleInvalid).kv = false := rfl
@[simp] theorem Status.scheduleInvalid_kd (f : Status) : (f.scheduleInvalid).kd = false := rfl
@[simp] theorem Status.scheduleInvalid_ov (f : Status) : (f.scheduleInvalid).ov = f.ov := rfl
@[simp] theorem Status.scheduleInvalid_err (f : Status) : (f.scheduleInvalid).err = f.err := rfl
@[simp] theorem Status.scheduleInvalid_ecode (f : Status) : (f.scheduleInvalid).ecode = f.ecode := rfl

@[simp] theorem Status.scheduleValid_busy (f : Status) (d : Bool) : (f.scheduleValid d).busy = f.busy := rfl
@[simp] theorem Status.scheduleValid_kv (f : Status) (d : Bool) : (f.scheduleValid d).kv = true := rfl
@[simp] theorem Status.scheduleValid_kd (f : Status) (d : Bool) : (f.scheduleValid d).kd = d := rfl
@[simp] theorem Status.scheduleValid_ov (f : Status) (d : Bool) : (f.scheduleValid d).ov = f.ov := rfl
@[simp] theorem Status.scheduleValid_err (f : Status) (d : Bool) : (f.scheduleValid d).err = f.err := rfl
@[simp] theorem Status.scheduleValid_ecode (f : Status) (d : Bool) : (f.scheduleValid d).ecode = f.ecode := rfl

@[simp] theorem Status.withOutput_busy (f : Status) (v : Bool) : (f.withOutput v).busy = f.busy := rfl
@[simp] theorem Status.withOutput_kv (f : Status) (v : Bool) : (f.withOutput v).kv = f.kv := rfl
@[simp] theorem Status.withOutput_kd (f : Status) (v : Bool) : (f.withOutput v).kd = f.kd := rfl
@[simp] theorem Status.withOutput_ov (f : Status) (v : Bool) : (f.withOutput v).ov = v := rfl
@[simp] theorem Status.withOutput_err (f : Status) (v : Bool) : (f.withOutput v).err = f.err := rfl
@[simp] theorem Status.withOutput_ecode (f : Status) (v : Bool) : (f.withOutput v).ecode = f.ecode := rfl

@[simp] theorem Status.withBusy_busy (f : Status) (v : Bool) : (f.withBusy v).busy = v := rfl
@[simp] theorem Status.withBusy_kv (f : Status) (v : Bool) : (f.withBusy v).kv = f.kv := rfl
@[simp] theorem Status.withBusy_kd (f : Status) (v : Bool) : (f.withBusy v).kd = f.kd := rfl
@[simp] theorem Status.withBusy_ov (f : Status) (v : Bool) : (f.withBusy v).ov = f.ov := rfl
@[simp] theorem Status.withBusy_err (f : Status) (v : Bool) : (f.withBusy v).err = f.err := rfl
@[simp] theorem Status.withBusy_ecode (f : Status) (v : Bool) : (f.withBusy v).ecode = f.ecode := rfl

/-! ## STATUS after reset -/

@[simp] theorem Status.reset_busy : Status.reset.busy = false := rfl
@[simp] theorem Status.reset_kv : Status.reset.kv = false := rfl
@[simp] theorem Status.reset_kd : Status.reset.kd = false := rfl
@[simp] theorem Status.reset_ov : Status.reset.ov = false := rfl
@[simp] theorem Status.reset_err : Status.reset.err = false := rfl
@[simp] theorem Status.reset_ecode : Status.reset.ecode = 0 := rfl

/-! ## The updates of the state -/

@[simp] theorem respond_key (r : Response) (s : State) : (respond r s).key = s.key := rfl
@[simp] theorem respond_din (r : Response) (s : State) : (respond r s).din = s.din := rfl
@[simp] theorem respond_dout (r : Response) (s : State) : (respond r s).dout = s.dout := rfl
@[simp] theorem respond_st (r : Response) (s : State) : (respond r s).st = s.st := rfl
@[simp] theorem respond_rk (r : Response) (s : State) : (respond r s).rk = s.rk := rfl
@[simp] theorem respond_status (r : Response) (s : State) : (respond r s).status = s.status := rfl
@[simp] theorem respond_pend (r : Response) (s : State) : (respond r s).pend = s.pend := rfl
@[simp] theorem respond_turns (r : Response) (s : State) : (respond r s).turns = s.turns := rfl
@[simp] theorem respond_response (r : Response) (s : State) : (respond r s).response = r := rfl
@[simp] theorem respond_draws (r : Response) (s : State) : (respond r s).draws = s.draws := rfl

@[simp] theorem answerDraws_key (s : State) : (answerDraws s).key = s.key := rfl
@[simp] theorem answerDraws_din (s : State) : (answerDraws s).din = s.din := rfl
@[simp] theorem answerDraws_dout (s : State) : (answerDraws s).dout = s.dout := rfl
@[simp] theorem answerDraws_st (s : State) : (answerDraws s).st = s.st := rfl
@[simp] theorem answerDraws_rk (s : State) : (answerDraws s).rk = s.rk := rfl
@[simp] theorem answerDraws_status (s : State) : (answerDraws s).status = s.status := rfl
@[simp] theorem answerDraws_pend (s : State) : (answerDraws s).pend = s.pend := rfl
@[simp] theorem answerDraws_turns (s : State) : (answerDraws s).turns = s.turns := rfl
@[simp] theorem answerDraws_response (s : State) : (answerDraws s).response = .data (drawnWord s.draws) := rfl
@[simp] theorem answerDraws_draws (s : State) : (answerDraws s).draws = s.draws + 4 := rfl

@[simp] theorem recordError_key (code : BitVec 3) (s : State) : (recordError code s).key = s.key := rfl
@[simp] theorem recordError_din (code : BitVec 3) (s : State) : (recordError code s).din = s.din := rfl
@[simp] theorem recordError_dout (code : BitVec 3) (s : State) : (recordError code s).dout = s.dout := rfl
@[simp] theorem recordError_st (code : BitVec 3) (s : State) : (recordError code s).st = s.st := rfl
@[simp] theorem recordError_rk (code : BitVec 3) (s : State) : (recordError code s).rk = s.rk := rfl
@[simp] theorem recordError_status (code : BitVec 3) (s : State) : (recordError code s).status = s.status.withError code := rfl
@[simp] theorem recordError_pend (code : BitVec 3) (s : State) : (recordError code s).pend = s.pend := rfl
@[simp] theorem recordError_turns (code : BitVec 3) (s : State) : (recordError code s).turns = s.turns := rfl
@[simp] theorem recordError_response (code : BitVec 3) (s : State) : (recordError code s).response = s.response := rfl
@[simp] theorem recordError_draws (code : BitVec 3) (s : State) : (recordError code s).draws = s.draws := rfl

@[simp] theorem clearError_key (s : State) : (clearError s).key = s.key := rfl
@[simp] theorem clearError_din (s : State) : (clearError s).din = s.din := rfl
@[simp] theorem clearError_dout (s : State) : (clearError s).dout = s.dout := rfl
@[simp] theorem clearError_st (s : State) : (clearError s).st = s.st := rfl
@[simp] theorem clearError_rk (s : State) : (clearError s).rk = s.rk := rfl
@[simp] theorem clearError_status (s : State) : (clearError s).status = s.status.withoutError := rfl
@[simp] theorem clearError_pend (s : State) : (clearError s).pend = s.pend := rfl
@[simp] theorem clearError_turns (s : State) : (clearError s).turns = s.turns := rfl
@[simp] theorem clearError_response (s : State) : (clearError s).response = s.response := rfl
@[simp] theorem clearError_draws (s : State) : (clearError s).draws = s.draws := rfl

@[simp] theorem invalidateSchedule_key (s : State) : (invalidateSchedule s).key = s.key := rfl
@[simp] theorem invalidateSchedule_din (s : State) : (invalidateSchedule s).din = s.din := rfl
@[simp] theorem invalidateSchedule_dout (s : State) : (invalidateSchedule s).dout = s.dout := rfl
@[simp] theorem invalidateSchedule_st (s : State) : (invalidateSchedule s).st = s.st := rfl
@[simp] theorem invalidateSchedule_rk (s : State) : (invalidateSchedule s).rk = s.rk := rfl
@[simp] theorem invalidateSchedule_status (s : State) : (invalidateSchedule s).status = s.status.scheduleInvalid := rfl
@[simp] theorem invalidateSchedule_pend (s : State) : (invalidateSchedule s).pend = s.pend := rfl
@[simp] theorem invalidateSchedule_turns (s : State) : (invalidateSchedule s).turns = s.turns := rfl
@[simp] theorem invalidateSchedule_response (s : State) : (invalidateSchedule s).response = s.response := rfl
@[simp] theorem invalidateSchedule_draws (s : State) : (invalidateSchedule s).draws = s.draws := rfl

@[simp] theorem accept_key (i : Instr) (s : State) : (accept i s).key = s.key := rfl
@[simp] theorem accept_din (i : Instr) (s : State) : (accept i s).din = s.din := rfl
@[simp] theorem accept_dout (i : Instr) (s : State) : (accept i s).dout = s.dout := rfl
@[simp] theorem accept_st (i : Instr) (s : State) : (accept i s).st = s.st := rfl
@[simp] theorem accept_rk (i : Instr) (s : State) : (accept i s).rk = s.rk := rfl
@[simp] theorem accept_status (i : Instr) (s : State) : (accept i s).status = s.status.withBusy true := rfl
@[simp] theorem accept_pend (i : Instr) (s : State) : (accept i s).pend = some i := rfl
@[simp] theorem accept_turns (i : Instr) (s : State) : (accept i s).turns = s.turns := rfl
@[simp] theorem accept_response (i : Instr) (s : State) : (accept i s).response = s.response := rfl
@[simp] theorem accept_draws (i : Instr) (s : State) : (accept i s).draws = s.draws := rfl

@[simp] theorem setOutputValid_key (v : Bool) (s : State) : (setOutputValid v s).key = s.key := rfl
@[simp] theorem setOutputValid_din (v : Bool) (s : State) : (setOutputValid v s).din = s.din := rfl
@[simp] theorem setOutputValid_dout (v : Bool) (s : State) : (setOutputValid v s).dout = s.dout := rfl
@[simp] theorem setOutputValid_st (v : Bool) (s : State) : (setOutputValid v s).st = s.st := rfl
@[simp] theorem setOutputValid_rk (v : Bool) (s : State) : (setOutputValid v s).rk = s.rk := rfl
@[simp] theorem setOutputValid_status (v : Bool) (s : State) : (setOutputValid v s).status = s.status.withOutput v := rfl
@[simp] theorem setOutputValid_pend (v : Bool) (s : State) : (setOutputValid v s).pend = s.pend := rfl
@[simp] theorem setOutputValid_turns (v : Bool) (s : State) : (setOutputValid v s).turns = s.turns := rfl
@[simp] theorem setOutputValid_response (v : Bool) (s : State) : (setOutputValid v s).response = s.response := rfl
@[simp] theorem setOutputValid_draws (v : Bool) (s : State) : (setOutputValid v s).draws = s.draws := rfl

@[simp] theorem retire_key (s : State) : (retire s).key = s.key := rfl
@[simp] theorem retire_din (s : State) : (retire s).din = s.din := rfl
@[simp] theorem retire_dout (s : State) : (retire s).dout = s.dout := rfl
@[simp] theorem retire_st (s : State) : (retire s).st = s.st := rfl
@[simp] theorem retire_rk (s : State) : (retire s).rk = s.rk := rfl
@[simp] theorem retire_status (s : State) : (retire s).status = s.status.withBusy false := rfl
@[simp] theorem retire_pend (s : State) : (retire s).pend = none := rfl
@[simp] theorem retire_turns (s : State) : (retire s).turns = s.turns := rfl
@[simp] theorem retire_response (s : State) : (retire s).response = s.response := rfl
@[simp] theorem retire_draws (s : State) : (retire s).draws = s.draws := rfl

@[simp] theorem writeSchedule_key (d : Bool) (rk : Schedule) (s : State) : (writeSchedule d rk s).key = s.key := rfl
@[simp] theorem writeSchedule_din (d : Bool) (rk : Schedule) (s : State) : (writeSchedule d rk s).din = s.din := rfl
@[simp] theorem writeSchedule_dout (d : Bool) (rk : Schedule) (s : State) : (writeSchedule d rk s).dout = s.dout := rfl
@[simp] theorem writeSchedule_st (d : Bool) (rk : Schedule) (s : State) : (writeSchedule d rk s).st = s.st := rfl
@[simp] theorem writeSchedule_rk (d : Bool) (rk : Schedule) (s : State) : (writeSchedule d rk s).rk = rk := rfl
@[simp] theorem writeSchedule_status (d : Bool) (rk : Schedule) (s : State) : (writeSchedule d rk s).status = s.status.scheduleValid d := rfl
@[simp] theorem writeSchedule_pend (d : Bool) (rk : Schedule) (s : State) : (writeSchedule d rk s).pend = s.pend := rfl
@[simp] theorem writeSchedule_turns (d : Bool) (rk : Schedule) (s : State) : (writeSchedule d rk s).turns = s.turns := rfl
@[simp] theorem writeSchedule_response (d : Bool) (rk : Schedule) (s : State) : (writeSchedule d rk s).response = s.response := rfl
@[simp] theorem writeSchedule_draws (d : Bool) (rk : Schedule) (s : State) : (writeSchedule d rk s).draws = s.draws := rfl

@[simp] theorem writeBlock_key (m : Matrix4) (s : State) : (writeBlock m s).key = s.key := rfl
@[simp] theorem writeBlock_din (m : Matrix4) (s : State) : (writeBlock m s).din = s.din := rfl
@[simp] theorem writeBlock_dout (m : Matrix4) (s : State) : (writeBlock m s).dout = storeState m := rfl
@[simp] theorem writeBlock_st (m : Matrix4) (s : State) : (writeBlock m s).st = m := rfl
@[simp] theorem writeBlock_rk (m : Matrix4) (s : State) : (writeBlock m s).rk = s.rk := rfl
@[simp] theorem writeBlock_status (m : Matrix4) (s : State) : (writeBlock m s).status = s.status.withOutput true := rfl
@[simp] theorem writeBlock_pend (m : Matrix4) (s : State) : (writeBlock m s).pend = s.pend := rfl
@[simp] theorem writeBlock_turns (m : Matrix4) (s : State) : (writeBlock m s).turns = s.turns := rfl
@[simp] theorem writeBlock_response (m : Matrix4) (s : State) : (writeBlock m s).response = s.response := rfl
@[simp] theorem writeBlock_draws (m : Matrix4) (s : State) : (writeBlock m s).draws = s.draws := rfl

@[simp] theorem State.withTurn_key (t : Turn) (s : State) : (State.withTurn t s).key = s.key := rfl
@[simp] theorem State.withTurn_din (t : Turn) (s : State) : (State.withTurn t s).din = s.din := rfl
@[simp] theorem State.withTurn_dout (t : Turn) (s : State) : (State.withTurn t s).dout = s.dout := rfl
@[simp] theorem State.withTurn_st (t : Turn) (s : State) : (State.withTurn t s).st = s.st := rfl
@[simp] theorem State.withTurn_rk (t : Turn) (s : State) : (State.withTurn t s).rk = s.rk := rfl
@[simp] theorem State.withTurn_status (t : Turn) (s : State) : (State.withTurn t s).status = s.status := rfl
@[simp] theorem State.withTurn_pend (t : Turn) (s : State) : (State.withTurn t s).pend = s.pend := rfl
@[simp] theorem State.withTurn_turns (t : Turn) (s : State) : (State.withTurn t s).turns = t :: s.turns := rfl
@[simp] theorem State.withTurn_response (t : Turn) (s : State) : (State.withTurn t s).response = s.response := rfl
@[simp] theorem State.withTurn_draws (t : Turn) (s : State) : (State.withTurn t s).draws = s.draws := rfl

@[simp] theorem platformReset_key (s : State) : (platformReset s).key = Vector.replicate 32 0 := rfl
@[simp] theorem platformReset_din (s : State) : (platformReset s).din = Vector.replicate 16 0 := rfl
@[simp] theorem platformReset_dout (s : State) : (platformReset s).dout = Vector.ofFn (fun k => Config.anyByte (s.draws + k.val)) := rfl
@[simp] theorem platformReset_st (s : State) : (platformReset s).st = drawnMatrix (s.draws + 16) := rfl
@[simp] theorem platformReset_rk (s : State) : (platformReset s).rk = Vector.ofFn (fun i => drawnMatrix (s.draws + 32 + 16 * i.val)) := rfl
@[simp] theorem platformReset_status (s : State) : (platformReset s).status = Status.reset := rfl
@[simp] theorem platformReset_pend (s : State) : (platformReset s).pend = none := rfl
@[simp] theorem platformReset_turns (s : State) : (platformReset s).turns = s.turns := rfl
@[simp] theorem platformReset_response (s : State) : (platformReset s).response = .idle := rfl
@[simp] theorem platformReset_draws (s : State) : (platformReset s).draws = s.draws + resetDraws := rfl

/-! ## What every completion does and leaves -/

@[simp] theorem completion_key (i : Instr) (s : State) : (completion i s).key = s.key := by
  cases i <;> simp [completion, completeKeyexpE, completeKeyexpD, completeEnc, completeDec]
@[simp] theorem completion_din (i : Instr) (s : State) : (completion i s).din = s.din := by
  cases i <;> simp [completion, completeKeyexpE, completeKeyexpD, completeEnc, completeDec]
@[simp] theorem completion_pend (i : Instr) (s : State) : (completion i s).pend = none := by
  cases i <;> simp [completion, completeKeyexpE, completeKeyexpD, completeEnc, completeDec]
@[simp] theorem completion_turns (i : Instr) (s : State) : (completion i s).turns = s.turns := by
  cases i <;> simp [completion, completeKeyexpE, completeKeyexpD, completeEnc, completeDec]
@[simp] theorem completion_response (i : Instr) (s : State) : (completion i s).response = s.response := by
  cases i <;> simp [completion, completeKeyexpE, completeKeyexpD, completeEnc, completeDec]
@[simp] theorem completion_draws (i : Instr) (s : State) : (completion i s).draws = s.draws := by
  cases i <;> simp [completion, completeKeyexpE, completeKeyexpD, completeEnc, completeDec]
@[simp] theorem completion_busy (i : Instr) (s : State) : (completion i s).status.busy = false := by
  cases i <;> simp [completion, completeKeyexpE, completeKeyexpD, completeEnc, completeDec]
@[simp] theorem completion_err (i : Instr) (s : State) : (completion i s).status.err = s.status.err := by
  cases i <;> simp [completion, completeKeyexpE, completeKeyexpD, completeEnc, completeDec]
@[simp] theorem completion_ecode (i : Instr) (s : State) : (completion i s).status.ecode = s.status.ecode := by
  cases i <;> simp [completion, completeKeyexpE, completeKeyexpD, completeEnc, completeDec]

/-! ## The operations that are another operation -/

theorem busError_eq (s : State) : busError s = respond .busError s := rfl
theorem dropWrite_eq (s : State) : dropWrite s = recordError busyWrite s := rfl
theorem refuse_eq (code : BitVec 3) (s : State) : refuse code s = recordError code s := rfl
theorem refuseIllegal_eq (s : State) : refuseIllegal s = recordError illegalCmd (clearError s) := rfl

end Sys2Proof.Machine
end

