-- ==== Sys2Proof/Laws/Ops.lean ====
section
/-!
SUPPORT. What each shared operation can do, said once. The provers cite these and do not unfold the operations.
-/

namespace Sys2Proof.Machine

open Sys2Proof

/-! ## Bytes, columns and matrices -/

@[simp] theorem byteOf_columnFrom (f : Fin 4 → Byte) (r : Fin 4) : byteOf (columnFrom f) r = f r := by
  fin_cases r <;> rfl

@[simp] theorem columnOf_matrixFrom (f : Fin 4 → Fin 4 → Byte) (c : Fin 4) : columnOf (matrixFrom f) c = columnFrom (f c) := by
  fin_cases c <;> rfl

@[simp] theorem cell_matrixFrom (f : Fin 4 → Fin 4 → Byte) (c r : Fin 4) : cell (matrixFrom f) c r = f c r := by
  simp [cell]

/-- Two matrices with the same cells are one matrix. -/
theorem matrix_ext {m n : Matrix4} (h : ∀ c r, cell m c r = cell n c r) : m = n := by
  obtain ⟨⟨a0, a1, a2, a3⟩, ⟨a4, a5, a6, a7⟩, ⟨a8, a9, a10, a11⟩, ⟨a12, a13, a14, a15⟩⟩ := m
  obtain ⟨⟨b0, b1, b2, b3⟩, ⟨b4, b5, b6, b7⟩, ⟨b8, b9, b10, b11⟩, ⟨b12, b13, b14, b15⟩⟩ := n
  have h0 : ∀ r, _ := h 0
  have h1 : ∀ r, _ := h 1
  have h2 : ∀ r, _ := h 2
  have h3 : ∀ r, _ := h 3
  simp only [Matrix4.mk.injEq, Column.mk.injEq]
  exact ⟨⟨h0 0, h0 1, h0 2, h0 3⟩, ⟨h1 0, h1 1, h1 2, h1 3⟩, ⟨h2 0, h2 1, h2 2, h2 3⟩, ⟨h3 0, h3 1, h3 2, h3 3⟩⟩

/-- Two columns with the same bytes are one column. -/
theorem column_ext {a b : Column} (h : ∀ r, byteOf a r = byteOf b r) : a = b := by
  cases a; cases b
  have h0 := h 0; have h1 := h 1; have h2 := h 2; have h3 := h 3
  simp_all [byteOf]

/-- A matrix is the matrix of its cells. -/
theorem matrixFrom_cell (m : Matrix4) : matrixFrom (fun c r => cell m c r) = m :=
  matrix_ext fun c r => by simp

/-- Reading a vector that was built entry by entry. -/
@[simp] theorem ofFn_get {α : Type} {n : Nat} (f : Fin n → α) (i : Fin n) : (Vector.ofFn f).get i = f i :=
  Vector.getElem_ofFn i.isLt

@[simp] theorem storeState_get (m : Matrix4) (k : Fin 16) :
    (storeState m).get k = cell m ⟨k.val / 4, by omega⟩ ⟨k.val % 4, by omega⟩ := by simp [storeState]

@[simp] theorem cell_loadState (b : Bytes 16) (c r : Fin 4) : cell (loadState b) c r = b.get (blockIndex c r) := by
  simp [loadState]

@[simp] theorem prepareInverse_get (rk : Schedule) (i : Fin 15) :
    (prepareInverse rk).get i = if 1 ≤ i.val ∧ i.val ≤ 13 then invMixColumns (rk.get i) else rk.get i := by
  simp [prepareInverse]

/-- Two byte registers with the same bytes are one. -/
theorem bytes_ext {n : Nat} {a b : Bytes n} (h : ∀ k : Fin n, a.get k = b.get k) : a = b :=
  Vector.ext fun k hk => h ⟨k, hk⟩

/-! ## The byte registers -/

/-- A byte of a register after a word write. -/
theorem putWord_getElem {n : Nat} (b : Bytes n) (k : Nat) (v : BusWord) (j : Nat) (h : j < n) :
    (putWord b k v)[j] = if k ≤ j ∧ j < k + 4 then lane v (j - k) else b[j] := by
  simp [putWord, Vector.get, Vector.getElem_ofFn]

/-- A word write leaves every byte outside its four as it was. -/
theorem putWord_getElem_outside {n : Nat} (b : Bytes n) (k : Nat) (v : BusWord) (j : Nat) (h : j < n)
    (out : j < k ∨ k + 4 ≤ j) : (putWord b k v)[j] = b[j] := by
  rw [putWord_getElem, if_neg]; omega

/-! ## Where a byte of the window is -/

theorem regionOf_key {o : Nat} (h : o < 0x020) : regionOf o = .key := by simp [regionOf, h]

theorem regionOf_din {o : Nat} (h : 0x020 ≤ o) (h' : o < 0x030) : regionOf o = .din := by
  simp only [regionOf]; split_ifs <;> first | omega | rfl

theorem regionOf_dout {o : Nat} (h : 0x030 ≤ o) (h' : o < 0x040) : regionOf o = .dout := by
  simp only [regionOf]; split_ifs <;> first | omega | rfl

theorem regionOf_cmd {o : Nat} (h : 0x040 ≤ o) (h' : o < 0x044) : regionOf o = .cmd := by
  simp only [regionOf]; split_ifs <;> first | omega | rfl

theorem regionOf_status {o : Nat} (h : 0x044 ≤ o) (h' : o < 0x048) : regionOf o = .status := by
  simp only [regionOf]; split_ifs <;> first | omega | rfl

theorem regionOf_rk {o : Nat} (h : 0x100 ≤ o) (h' : o < 0x1F0) : regionOf o = .rk := by
  simp only [regionOf]; split_ifs <;> first | omega | rfl

theorem regionOf_unmapped {o : Nat} (h : 0x048 ≤ o ∧ o < 0x100 ∨ 0x1F0 ≤ o) : regionOf o = .unmapped := by
  simp only [regionOf]; split_ifs <;> first | omega | rfl

/-- Two states with the same registers have the same window bytes outside STATUS. -/
theorem byteAt_congr {s t : State} (hk : t.key = s.key) (hd : t.din = s.din) (ho : t.dout = s.dout) (hr : t.rk = s.rk)
    (o : Nat) (h : regionOf o ≠ .status) : byteAt t o = byteAt s o := by
  unfold byteAt
  split <;> simp_all

/-- Two states with the same registers and the same STATUS have the same window. -/
theorem byteAt_congr_all {s t : State} (hk : t.key = s.key) (hd : t.din = s.din) (ho : t.dout = s.dout) (hr : t.rk = s.rk)
    (hs : t.status = s.status) (o : Nat) : byteAt t o = byteAt s o := by
  unfold byteAt
  split <;> simp_all

@[simp] theorem byteAt_respond (r : Response) (s : State) (o : Nat) : byteAt (respond r s) o = byteAt s o :=
  byteAt_congr_all rfl rfl rfl rfl rfl o

/-! ## The host's register writes -/

theorem writeKeyWord_busy {o : Nat} {v : BusWord} {s : State} (h : s.status.busy = true) :
    writeKeyWord o v s = recordError busyWrite s := by simp [writeKeyWord, h, dropWrite_eq]

theorem writeKeyWord_idle {o : Nat} {v : BusWord} {s : State} (h : s.status.busy = false) :
    writeKeyWord o v s = invalidateSchedule { s with key := putWord s.key o v } := by simp [writeKeyWord, h]

theorem writeDinWord_busy {o : Nat} {v : BusWord} {s : State} (h : s.status.busy = true) :
    writeDinWord o v s = recordError busyWrite s := by simp [writeDinWord, h, dropWrite_eq]

theorem writeDinWord_idle {o : Nat} {v : BusWord} {s : State} (h : s.status.busy = false) :
    writeDinWord o v s = { s with din := putWord s.din o v } := by simp [writeDinWord, h]

/-! ## Issue -/

section
variable {i : Instr} {check : Status → Option (BitVec 3)} {effects : State → State} {s : State}

theorem issue_busy (h : s.status.busy = true) : issue i check effects s = recordError busyWrite s := by
  simp [issue, h, dropWrite_eq]

theorem issue_refused {code : BitVec 3} (h : s.status.busy = false) (hc : check s.status.withoutError = some code) :
    issue i check effects s = recordError code (clearError s) := by
  simp [issue, h, hc, refuse_eq]

theorem issue_accepted (h : s.status.busy = false) (hc : check s.status.withoutError = none) :
    issue i check effects s = effects (accept i (clearError s)) := by
  simp [issue, h, hc]

/-- Everything that the CMD write of a legal word can do (R150). -/
theorem issue_cases (i : Instr) (check : Status → Option (BitVec 3)) (effects : State → State) (s : State) :
    (s.status.busy = true ∧ issue i check effects s = recordError busyWrite s) ∨
    (s.status.busy = false ∧ ∃ code, check s.status.withoutError = some code ∧
      issue i check effects s = recordError code (clearError s)) ∨
    (s.status.busy = false ∧ check s.status.withoutError = none ∧
      issue i check effects s = effects (accept i (clearError s))) := by
  cases hb : s.status.busy with
  | true => exact .inl ⟨rfl, issue_busy hb⟩
  | false =>
    cases hc : check s.status.withoutError with
    | some code => exact .inr (.inl ⟨rfl, code, rfl, issue_refused hb hc⟩)
    | none => exact .inr (.inr ⟨rfl, rfl, issue_accepted hb hc⟩)

end

@[simp] theorem checkNothing_eq (f : Status) : checkNothing f = none := rfl

theorem checkSchedule_none {d : Bool} {f : Status} : checkSchedule d f = none ↔ f.kv = true ∧ f.kd = d := by
  unfold checkSchedule; split_ifs <;> simp_all

theorem checkSchedule_some {d : Bool} {f : Status} {code : BitVec 3} (h : checkSchedule d f = some code) :
    f.kv = false ∧ code = noSchedule ∨ f.kv = true ∧ f.kd ≠ d ∧ code = modeMismatch := by
  unfold checkSchedule at h; split_ifs at h <;> simp_all

end Sys2Proof.Machine
end

