-- ==== Sys2Proof/Laws/Bus.lean ====
section
/-!
SUPPORT. Host accesses, said once: an aligned 32-bit access is the read or the write of its offset, and what each region does.
-/

namespace Sys2Proof.Machine

open Sys2Proof

theorem windowOffset_val {o : Nat} (h : o < 512) : (windowOffset o).val = o := by
  simp [windowOffset, Nat.mod_eq_of_lt h]

/-- An aligned 32-bit read is the read of its offset. -/
theorem hostAccess_readAt {o : Nat} (h4 : o % 4 = 0) (h : o < 512) (s : State) :
    hostAccess (readAt o) s = hostRead o s := by
  simp [hostAccess, Access.legal, readAt, windowOffset_val h, h4]

/-- An aligned 32-bit write is the write of its offset. -/
theorem hostAccess_writeAt {o : Nat} (h4 : o % 4 = 0) (h : o < 512) (v : BusWord) (s : State) :
    hostAccess (writeAt o v) s = hostWrite o v s := by
  simp [hostAccess, Access.legal, writeAt, windowOffset_val h, h4]

/-- A CMD write, with the host already answered. -/
theorem hostAccess_cmdAccess (v : BusWord) (s : State) : hostAccess (cmdAccess v) s = cmdWrite v (respond .done s) := by
  rw [cmdAccess, hostAccess_writeAt (by decide) (by decide), hostWrite, regionOf_cmd (by decide) (by decide)]

/-- A legal write is the write of an aligned word. -/
theorem Access.eq_writeAt {a : Access} {v : BusWord} (h : a.legal = true) (hk : a.kind = .write v) :
    a = writeAt a.offset.val v := by
  obtain ⟨kind, offset, width⟩ := a
  simp only [Access.legal, Bool.and_eq_true, beq_iff_eq] at h
  simp only at hk
  simp [writeAt, windowOffset, h.1, hk]

/-- A read of a word whose bytes are mapped, where the read is no draw. -/
theorem hostRead_word {o : Nat} {s : State} {b0 b1 b2 b3 : Byte}
    (hd : s.status.busy = false ∨ drawnWhileBusy (regionOf o) = false)
    (h0 : byteAt s o = some b0) (h1 : byteAt s (o + 1) = some b1) (h2 : byteAt s (o + 2) = some b2)
    (h3 : byteAt s (o + 3) = some b3) : hostRead o s = .next (respond (.data (busWordOf b0 b1 b2 b3)) s) := by
  unfold hostRead
  rw [if_neg (by rcases hd with h | h <;> simp [h])]
  simp [wordAtOffset, h0, h1, h2, h3]

/-- A read of DOUT or RK while BUSY = 1. -/
theorem hostRead_drawn {o : Nat} {s : State} (hb : s.status.busy = true) (hd : drawnWhileBusy (regionOf o) = true) :
    hostRead o s = .next (answerDraws s) := by simp [hostRead, hb, hd]

/-- A word write to KEY. -/
theorem hostWrite_key {o : Nat} (h : o < 0x020) (v : BusWord) (s : State) :
    hostWrite o v s = .next (writeKeyWord o v (respond .done s)) := by
  simp [hostWrite, regionOf_key h]

/-- A word write to DIN. -/
theorem hostWrite_din {k : Nat} (h : k < 16) (v : BusWord) (s : State) :
    hostWrite (0x020 + k) v s = .next (writeDinWord k v (respond .done s)) := by
  simp [hostWrite, regionOf_din (o := 0x020 + k) (by omega) (by omega)]

/-- A word write to a read-only register. -/
theorem hostWrite_readOnly {o : Nat} (h : regionOf o = .dout ∨ regionOf o = .status ∨ regionOf o = .rk) (v : BusWord)
    (s : State) : hostWrite o v s = .next (respond .done s) := by
  rcases h with h | h | h <;> simp [hostWrite, h]

/-- A word write to CMD. -/
theorem hostWrite_cmd (v : BusWord) (s : State) : hostWrite 0x040 v s = cmdWrite v (respond .done s) := rfl

/-- A write to KEY, DIN or CMD while BUSY = 1. -/
theorem hostWrite_busy {o : Nat} {s : State} (hb : s.status.busy = true)
    (h : regionOf o = .key ∨ regionOf o = .din ∨ regionOf o = .cmd) (v : BusWord) :
    hostWrite o v s = .next (recordError busyWrite (respond .done s)) := by
  rcases h with h | h | h <;> simp [hostWrite, h, writeKeyWord, writeDinWord, cmdWrite, hb, dropWrite_eq]

theorem byteAt_key {s : State} {o : Nat} (h : o < 0x020) : byteAt s o = some s.key[o] := by
  simp [byteAt, regionOf_key h, h]

theorem byteAt_din {s : State} {k : Nat} (h : k < 16) : byteAt s (0x020 + k) = some s.din[k] := by
  simp [byteAt, regionOf_din (o := 0x020 + k) (by omega) (by omega), h]

theorem byteAt_dout {s : State} {k : Nat} (h : k < 16) : byteAt s (0x030 + k) = some s.dout[k] := by
  simp [byteAt, regionOf_dout (o := 0x030 + k) (by omega) (by omega), h]

theorem byteAt_cmd {s : State} {k : Nat} (h : k < 4) : byteAt s (0x040 + k) = some 0 := by
  simp [byteAt, regionOf_cmd (o := 0x040 + k) (by omega) (by omega)]

theorem byteAt_status {s : State} {k : Nat} (h : k < 4) : byteAt s (0x044 + k) = some (lane s.status.word k) := by
  simp [byteAt, regionOf_status (o := 0x044 + k) (by omega) (by omega)]

theorem byteAt_rk {s : State} (i : Fin 15) (c r : Fin 4) :
    byteAt s (0x100 + 16 * i.val + 4 * c.val + r.val) = some (cell (s.rk.get i) c r) := by
  have hreg := regionOf_rk (o := 0x100 + 16 * i.val + 4 * c.val + r.val) (by omega) (by omega)
  have hi : (0x100 + 16 * i.val + 4 * c.val + r.val - 0x100) / 16 = i.val := by omega
  have hk : (0x100 + 16 * i.val + 4 * c.val + r.val - 0x100) % 16 = 4 * c.val + r.val := by omega
  have hc : (4 * c.val + r.val) / 4 = c.val := by omega
  have hr : (4 * c.val + r.val) % 4 = r.val := by omega
  have h16 : 4 * c.val + r.val < 16 := by omega
  simp only [byteAt, hreg, hi, hk]
  simp [storeState, Vector.get, hc, hr, h16]

/-- The four bytes of a bus word, put together again. -/
theorem busWordOf_lanes (v : BusWord) : busWordOf (lane v 0) (lane v 1) (lane v 2) (lane v 3) = v := by
  apply BitVec.eq_of_getLsbD_eq
  intro i hi
  simp only [busWordOf, lane, BitVec.getLsbD_append, BitVec.getLsbD_extractLsb']
  interval_cases i <;> rfl

/-- The lanes of a word of four bytes. -/
theorem lanes_busWordOf (b0 b1 b2 b3 : Byte) :
    lane (busWordOf b0 b1 b2 b3) 0 = b0 ∧ lane (busWordOf b0 b1 b2 b3) 1 = b1 ∧
    lane (busWordOf b0 b1 b2 b3) 2 = b2 ∧ lane (busWordOf b0 b1 b2 b3) 3 = b3 := by
  refine ⟨?_, ?_, ?_, ?_⟩ <;> apply BitVec.eq_of_getLsbD_eq <;> intro i hi <;>
    simp only [busWordOf, lane, BitVec.getLsbD_append, BitVec.getLsbD_extractLsb'] <;> interval_cases i <;> rfl

end Sys2Proof.Machine
end

