-- ==== Sys2Proof/Laws/Step.lean ====
section
/-!
SUPPORT. What a step can do, said once: `step_effect` is the inversion of `step`. Every invariant is derived from it.
-/

namespace Sys2Proof.Machine

open Sys2Proof

/-- What the turn's own work can be, from the state whose turn has been taken off: every constructor is one row of the
behaviours of R54 to R58, R150 to R157 and R225. -/
inductive Effect (s : State) : State → Prop where
  /-- A read that returns its word, a write that is ignored, a bus error: only the answer changes. -/
  | answered (r : Response) : Effect s (respond r s)
  /-- A read of DOUT or RK while BUSY = 1. -/
  | drawn : s.status.busy = true → Effect s (answerDraws s)
  /-- A write to KEY, DIN or CMD while BUSY = 1. -/
  | dropped : s.status.busy = true → Effect s (recordError busyWrite (respond .done s))
  /-- A write to KEY. -/
  | keyWritten (o : Nat) (v : BusWord) : s.status.busy = false →
      Effect s (invalidateSchedule { respond .done s with key := putWord s.key o v })
  /-- A write to DIN. -/
  | dinWritten (o : Nat) (v : BusWord) : s.status.busy = false →
      Effect s { respond .done s with din := putWord s.din o v }
  /-- A CMD write that is refused, with its code. -/
  | refusedCommand (code : BitVec 3) : s.status.busy = false → code ∈ [illegalCmd, noSchedule, modeMismatch] →
      Effect s (recordError code (clearError (respond .done s)))
  /-- KEYEXP is accepted, in either mode. -/
  | issuedKeyexp (i : Instr) : s.status.busy = false → i = .keyexpE ∨ i = .keyexpD →
      Effect s (invalidateSchedule (accept i (clearError (respond .done s))))
  /-- ENC is accepted. -/
  | issuedEnc : s.status.busy = false → s.status.kv = true → s.status.kd = false →
      Effect s (setOutputValid false (accept .enc (clearError (respond .done s))))
  /-- DEC is accepted. -/
  | issuedDec : s.status.busy = false → s.status.kv = true → s.status.kd = true →
      Effect s (setOutputValid false (accept .dec (clearError (respond .done s))))
  /-- The engine's turn while BUSY = 0. -/
  | idle : s.status.busy = false → Effect s s
  /-- KEYEXP.E completes. -/
  | completedKeyexpE : s.status.busy = true → s.pend = some .keyexpE →
      Effect s (retire (writeSchedule false (expandKey s.key false) s))
  /-- KEYEXP.D completes. -/
  | completedKeyexpD : s.status.busy = true → s.pend = some .keyexpD →
      Effect s (retire (writeSchedule true (expandKey s.key true) s))
  /-- ENC completes. -/
  | completedEnc : s.status.busy = true → s.pend = some .enc →
      Effect s (retire (writeBlock (encryptBlock (loadState s.din) s.rk) s))
  /-- DEC completes. -/
  | completedDec : s.status.busy = true → s.pend = some .dec →
      Effect s (retire (writeBlock (decryptBlock (loadState s.din) s.rk) s))
  /-- The platform resets the core. -/
  | reset : Effect s (platformReset s)

/-- What the CMD write of a legal word does, for each command. -/
theorem exec_effect {i : Instr} {s t : State} (h : exec i (respond .done s) = .next t) : Effect s t := by
  cases i with
  | keyexpE =>
    obtain ⟨hb, he⟩ | ⟨hb, code, hc, he⟩ | ⟨hb, hc, he⟩ := issue_cases .keyexpE checkNothing invalidateSchedule (respond .done s)
    · simp only [exec, execKeyexpE, he, Host.Outcome.next.injEq] at h; exact h ▸ .dropped hb
    · simp at hc
    · simp only [exec, execKeyexpE, he, Host.Outcome.next.injEq] at h; exact h ▸ .issuedKeyexp _ hb (.inl rfl)
  | keyexpD =>
    obtain ⟨hb, he⟩ | ⟨hb, code, hc, he⟩ | ⟨hb, hc, he⟩ := issue_cases .keyexpD checkNothing invalidateSchedule (respond .done s)
    · simp only [exec, execKeyexpD, he, Host.Outcome.next.injEq] at h; exact h ▸ .dropped hb
    · simp at hc
    · simp only [exec, execKeyexpD, he, Host.Outcome.next.injEq] at h; exact h ▸ .issuedKeyexp _ hb (.inr rfl)
  | enc =>
    obtain ⟨hb, he⟩ | ⟨hb, code, hc, he⟩ | ⟨hb, hc, he⟩ :=
        issue_cases .enc (checkSchedule false) (setOutputValid false) (respond .done s)
    · simp only [exec, execEnc, he, Host.Outcome.next.injEq] at h; exact h ▸ .dropped hb
    · simp only [exec, execEnc, he, Host.Outcome.next.injEq] at h
      refine h ▸ .refusedCommand code hb ?_
      obtain ⟨_, rfl⟩ | ⟨_, _, rfl⟩ := checkSchedule_some hc <;> simp
    · simp only [exec, execEnc, he, Host.Outcome.next.injEq] at h
      obtain ⟨hv, hd⟩ := checkSchedule_none.mp hc
      exact h ▸ .issuedEnc hb hv hd
  | dec =>
    obtain ⟨hb, he⟩ | ⟨hb, code, hc, he⟩ | ⟨hb, hc, he⟩ :=
        issue_cases .dec (checkSchedule true) (setOutputValid false) (respond .done s)
    · simp only [exec, execDec, he, Host.Outcome.next.injEq] at h; exact h ▸ .dropped hb
    · simp only [exec, execDec, he, Host.Outcome.next.injEq] at h
      refine h ▸ .refusedCommand code hb ?_
      obtain ⟨_, rfl⟩ | ⟨_, _, rfl⟩ := checkSchedule_some hc <;> simp
    · simp only [exec, execDec, he, Host.Outcome.next.injEq] at h
      obtain ⟨hv, hd⟩ := checkSchedule_none.mp hc
      exact h ▸ .issuedDec hb hv hd

/-- Everything a CMD write made while BUSY = 0 can answer: a refusal, an accepted KEYEXP, an accepted ENC or DEC. -/
theorem cmdWrite_cases {v : BusWord} {s t : State} (hb : s.status.busy = false) (h : cmdWrite v s = .next t) :
    (∃ code ∈ [illegalCmd, noSchedule, modeMismatch], t = recordError code (clearError s)) ∨
    (∃ i, (i = .keyexpE ∨ i = .keyexpD) ∧ decode v = some i ∧ t = invalidateSchedule (accept i (clearError s))) ∨
    (∃ i, (i = .enc ∨ i = .dec) ∧ decode v = some i ∧ s.status.kv = true ∧ (s.status.kd = true ↔ i = .dec) ∧
      t = setOutputValid false (accept i (clearError s))) := by
  unfold cmdWrite at h
  rw [if_neg (by simp [hb])] at h
  cases hd : decode v with
  | none => rw [hd] at h; exact .inl ⟨illegalCmd, by simp, (Host.Outcome.next.inj h).symm⟩
  | some i =>
    rw [hd] at h
    have issued : ∀ check effects, exec i s = .next (issue i check effects s) →
        (∀ code, check s.status.withoutError = some code → code ∈ [illegalCmd, noSchedule, modeMismatch]) →
        (∃ code ∈ [illegalCmd, noSchedule, modeMismatch], t = recordError code (clearError s)) ∨
        (check s.status.withoutError = none ∧ t = effects (accept i (clearError s))) := by
      intro check effects he hcodes
      obtain rfl := Host.Outcome.next.inj (he.symm.trans h)
      obtain ⟨hb', _⟩ | ⟨_, code, hc, e⟩ | ⟨_, hc, e⟩ := issue_cases i check effects s
      · simp [hb] at hb'
      · exact .inl ⟨code, hcodes code hc, e⟩
      · exact .inr ⟨hc, e⟩
    have codes : ∀ d code, checkSchedule d s.status.withoutError = some code →
        code ∈ [illegalCmd, noSchedule, modeMismatch] := by
      intro d code hc
      obtain ⟨_, rfl⟩ | ⟨_, _, rfl⟩ := checkSchedule_some hc <;> simp
    cases i with
    | keyexpE => exact (issued _ _ rfl (by simp)).imp id fun h => .inl ⟨_, .inl rfl, rfl, h.2⟩
    | keyexpD => exact (issued _ _ rfl (by simp)).imp id fun h => .inl ⟨_, .inr rfl, rfl, h.2⟩
    | enc =>
      refine (issued _ _ rfl (codes _)).imp id fun h => .inr ⟨_, .inl rfl, rfl, ?_⟩
      have := checkSchedule_none.mp h.1
      exact ⟨by simpa using this.1, by simpa using this.2, h.2⟩
    | dec =>
      refine (issued _ _ rfl (codes _)).imp id fun h => .inr ⟨_, .inr rfl, rfl, ?_⟩
      have := checkSchedule_none.mp h.1
      exact ⟨by simpa using this.1, by simpa using this.2, h.2⟩

theorem hostRead_effect {o : Nat} {s t : State} (h : hostRead o s = .next t) : Effect s t := by
  unfold hostRead at h
  split at h
  · rename_i hb
    simp only [Bool.and_eq_true] at hb
    exact (Host.Outcome.next.inj h) ▸ .drawn hb.1
  · split at h
    · exact (Host.Outcome.next.inj h) ▸ .answered _
    · exact (Host.Outcome.next.inj h) ▸ .answered _

theorem cmdWrite_effect {v : BusWord} {s t : State} (h : cmdWrite v (respond .done s) = .next t) : Effect s t := by
  unfold cmdWrite at h
  split at h
  · rename_i hb; exact (Host.Outcome.next.inj h) ▸ .dropped hb
  · rename_i hb
    split at h
    · exact (Host.Outcome.next.inj h) ▸ .refusedCommand illegalCmd (by simpa using hb) (by simp)
    · exact exec_effect h

theorem hostWrite_effect {o : Nat} {v : BusWord} {s t : State} (h : hostWrite o v s = .next t) : Effect s t := by
  unfold hostWrite at h
  split at h
  · obtain rfl := Host.Outcome.next.inj h
    cases hb : s.status.busy with
    | true => rw [writeKeyWord_busy (by simpa using hb)]; exact .dropped hb
    | false => rw [writeKeyWord_idle (by simpa using hb)]; exact .keyWritten o v hb
  · obtain rfl := Host.Outcome.next.inj h
    cases hb : s.status.busy with
    | true => rw [writeDinWord_busy (by simpa using hb)]; exact .dropped hb
    | false => rw [writeDinWord_idle (by simpa using hb)]; exact .dinWritten _ v hb
  · exact cmdWrite_effect h
  · exact (Host.Outcome.next.inj h) ▸ .answered _
  · exact (Host.Outcome.next.inj h) ▸ .answered _
  · exact (Host.Outcome.next.inj h) ▸ .answered _
  · exact (Host.Outcome.next.inj h) ▸ .answered _

/-- Everything one host access can do. -/
theorem hostAccess_effect {a : Access} {s t : State} (h : hostAccess a s = .next t) : Effect s t := by
  unfold hostAccess at h
  split at h
  · split at h
    · exact hostRead_effect h
    · exact hostWrite_effect h
  · exact (Host.Outcome.next.inj h) ▸ .answered _

/-- The engine's turn with a command in flight. -/
theorem engineTurn_busy {s : State} {i : Instr} (hb : s.status.busy = true) (hp : s.pend = some i) :
    engineTurn s = .next (completion i s) := by simp [engineTurn, hb, completeCommand, hp]

/-- The engine's turn with no command in flight. -/
theorem engineTurn_idle {s : State} (hb : s.status.busy = false) : engineTurn s = .next s := by simp [engineTurn, hb]

/-- Everything the engine's turn can answer. -/
theorem engineTurn_cases {s t : State} (h : engineTurn s = .next t) :
    (s.status.busy = false ∧ t = s) ∨ (s.status.busy = true ∧ ∃ i, s.pend = some i ∧ t = completion i s) := by
  cases hb : s.status.busy with
  | false => rw [engineTurn_idle hb] at h; exact .inl ⟨rfl, (Host.Outcome.next.inj h).symm⟩
  | true =>
    cases hp : s.pend with
    | none => simp [engineTurn, hb, completeCommand, hp] at h
    | some i => rw [engineTurn_busy hb hp] at h; exact .inr ⟨rfl, i, rfl, (Host.Outcome.next.inj h).symm⟩

/-- Everything the engine's turn can do. -/
theorem engineTurn_effect {s t : State} (h : engineTurn s = .next t) : Effect s t := by
  obtain ⟨hb, rfl⟩ | ⟨hb, i, hp, rfl⟩ := engineTurn_cases h
  · exact .idle hb
  · cases i with
    | keyexpE => exact .completedKeyexpE hb hp
    | keyexpD => exact .completedKeyexpD hb hp
    | enc => exact .completedEnc hb hp
    | dec => exact .completedDec hb hp

theorem takeTurn_effect {u : Turn} {s t : State} (h : takeTurn u s = .next t) : Effect s t := by
  cases u with
  | host a => exact hostAccess_effect h
  | engine => exact engineTurn_effect h
  | reset => exact (Host.Outcome.next.inj h) ▸ .reset

/-- The state with its next turn taken off. -/
def turnTaken (s : State) : State := { s with turns := s.turns.tail }

/-- The inversion of `step`: whatever a step answers is one of the effects, from the state with its turn taken off. -/
theorem step_effect {s t : State} (h : step s = .next t) : Effect (turnTaken s) t := by
  unfold step nextTurn at h
  split at h
  · rename_i ht
    have hs : turnTaken s = s := by cases s; simp_all [turnTaken]
    rw [hs]; exact engineTurn_effect h
  · rename_i u rest ht
    have hs : turnTaken s = { s with turns := rest } := by simp [turnTaken, ht]
    rw [hs]; exact takeTurn_effect h

/-- Whose turn a step took. -/
theorem step_turn_cases {s t : State} (h : step s = .next t) :
    (s.turns = [] ∧ engineTurn s = .next t) ∨
    (∃ rest, s.turns = .engine :: rest ∧ engineTurn { s with turns := rest } = .next t) ∨
    (∃ a rest, s.turns = .host a :: rest ∧ hostAccess a { s with turns := rest } = .next t) ∨
    (∃ rest, s.turns = .reset :: rest ∧ t = platformReset { s with turns := rest }) := by
  unfold step nextTurn at h
  split at h
  · exact .inl ⟨‹_›, h⟩
  · rename_i u rest ht
    cases u with
    | host a => exact .inr (.inr (.inl ⟨a, rest, ht, h⟩))
    | engine => exact .inr (.inl ⟨rest, ht, h⟩)
    | reset => exact .inr (.inr (.inr ⟨rest, ht, (Host.Outcome.next.inj h).symm⟩))

/-- Everything one host access can do, with the access that does it. -/
theorem hostAccess_cases {a : Access} {s t : State} (h : hostAccess a s = .next t) :
    (∃ r, t = respond r s) ∨
    (s.status.busy = true ∧ a = ⟨.read, a.offset, 32⟩ ∧ (regionOf a.offset.val = .dout ∨ regionOf a.offset.val = .rk) ∧
      t = answerDraws s) ∨
    (s.status.busy = true ∧ t = recordError busyWrite (respond .done s)) ∨
    (s.status.busy = false ∧ ∃ (j : Fin 8) (v : BusWord), a = writeAt (4 * j.val) v ∧
      t = invalidateSchedule { respond .done s with key := putWord s.key (4 * j.val) v }) ∨
    (s.status.busy = false ∧ ∃ (j : Fin 4) (v : BusWord), a = writeAt (0x020 + 4 * j.val) v ∧
      t = { respond .done s with din := putWord s.din (4 * j.val) v }) ∨
    (s.status.busy = false ∧ ∃ v : BusWord, a = cmdAccess v ∧ cmdWrite v (respond .done s) = .next t) := by
  by_cases hl : a.legal = true
  · have h4 : a.offset.val % 4 = 0 ∧ a.width = 32 := by
      simp only [Access.legal, Bool.and_eq_true, beq_iff_eq] at hl; exact ⟨hl.2, hl.1⟩
    cases hk : a.kind with
    | read =>
      simp only [hostAccess, hl, hk, if_true, hostRead] at h
      split at h
      · rename_i hb
        simp only [Bool.and_eq_true, drawnWhileBusy, Bool.or_eq_true, beq_iff_eq] at hb
        refine .inr (.inl ⟨hb.1, ?_, hb.2, (Host.Outcome.next.inj h).symm⟩)
        cases a; simp_all
      · split at h
        · exact .inl ⟨_, (Host.Outcome.next.inj h).symm⟩
        · exact .inl ⟨_, (Host.Outcome.next.inj h).symm⟩
    | write v =>
      have ha := Access.eq_writeAt hl hk
      have hw : hostWrite a.offset.val v s = .next t := by
        rw [ha, hostAccess_writeAt h4.1 a.offset.isLt] at h; exact h
      generalize ho : a.offset.val = o at *
      by_cases hkey : o < 0x020
      · rw [hostWrite_key hkey] at hw
        cases hb : s.status.busy with
        | true =>
          rw [writeKeyWord_busy (by simpa using hb)] at hw
          exact .inr (.inr (.inl ⟨rfl, (Host.Outcome.next.inj hw).symm⟩))
        | false =>
          rw [writeKeyWord_idle (by simpa using hb)] at hw
          refine .inr (.inr (.inr (.inl ⟨rfl, ⟨o / 4, by omega⟩, v, ?_, ?_⟩)))
          · refine ha.trans (congrArg (writeAt · v) ?_); simp; omega
          · have e : 4 * (o / 4) = o := by omega
            simp only [e]
            exact (Host.Outcome.next.inj hw).symm
      · by_cases hdin : o < 0x030
        · obtain ⟨k, rfl⟩ : ∃ k, o = 0x020 + k := ⟨o - 0x020, by omega⟩
          rw [hostWrite_din (by omega)] at hw
          cases hb : s.status.busy with
          | true =>
            rw [writeDinWord_busy (by simpa using hb)] at hw
            exact .inr (.inr (.inl ⟨rfl, (Host.Outcome.next.inj hw).symm⟩))
          | false =>
            rw [writeDinWord_idle (by simpa using hb)] at hw
            refine .inr (.inr (.inr (.inr (.inl ⟨rfl, ⟨k / 4, by omega⟩, v, ?_, ?_⟩))))
            · refine ha.trans (congrArg (writeAt · v) ?_); simp; omega
            · have e : 4 * (k / 4) = k := by omega
              simp only [e]
              exact (Host.Outcome.next.inj hw).symm
        · by_cases hcmd : o = 0x040
          · subst hcmd
            rw [hostWrite_cmd] at hw
            cases hb : s.status.busy with
            | true =>
              simp only [cmdWrite, respond_status, hb, if_true] at hw
              exact .inr (.inr (.inl ⟨rfl, (Host.Outcome.next.inj hw).symm⟩))
            | false => exact .inr (.inr (.inr (.inr (.inr ⟨rfl, v, ha, hw⟩))))
          · have : regionOf o = .dout ∨ regionOf o = .status ∨ regionOf o = .rk ∨ regionOf o = .unmapped := by
              have := a.offset.isLt
              simp only [regionOf]; split_ifs <;> first | omega | simp
            unfold hostWrite at hw
            rcases this with hr | hr | hr | hr <;> simp only [hr] at hw <;>
              exact .inl ⟨_, (Host.Outcome.next.inj hw).symm⟩
  · simp only [hostAccess, hl] at h
    exact .inl ⟨.busError, (Host.Outcome.next.inj h).symm⟩

/-- A command's CMD write never stops the machine. -/
theorem exec_next (i : Instr) (s : State) : ∃ t, exec i s = .next t := by cases i <;> exact ⟨_, rfl⟩

/-- A host access never stops the machine: a bus error is an answer. -/
theorem hostAccess_next (a : Access) (s : State) : ∃ t, hostAccess a s = .next t := by
  unfold hostAccess
  split
  · split
    · unfold hostRead; split
      · exact ⟨_, rfl⟩
      · split <;> exact ⟨_, rfl⟩
    · unfold hostWrite
      split
      case h_3 =>
        unfold cmdWrite
        split
        · exact ⟨_, rfl⟩
        · split
          · exact ⟨_, rfl⟩
          · exact exec_next _ _
      all_goals exact ⟨_, rfl⟩
  · exact ⟨_, rfl⟩

@[simp] theorem turnTaken_key (s : State) : (turnTaken s).key = s.key := rfl
@[simp] theorem turnTaken_din (s : State) : (turnTaken s).din = s.din := rfl
@[simp] theorem turnTaken_dout (s : State) : (turnTaken s).dout = s.dout := rfl
@[simp] theorem turnTaken_st (s : State) : (turnTaken s).st = s.st := rfl
@[simp] theorem turnTaken_rk (s : State) : (turnTaken s).rk = s.rk := rfl
@[simp] theorem turnTaken_status (s : State) : (turnTaken s).status = s.status := rfl
@[simp] theorem turnTaken_pend (s : State) : (turnTaken s).pend = s.pend := rfl
@[simp] theorem turnTaken_turns (s : State) : (turnTaken s).turns = s.turns.tail := rfl
@[simp] theorem turnTaken_response (s : State) : (turnTaken s).response = s.response := rfl
@[simp] theorem turnTaken_draws (s : State) : (turnTaken s).draws = s.draws := rfl

/-- Each turn is used up: one step takes exactly one turn off. -/
theorem step_turns {s t : State} (h : step s = .next t) : t.turns = s.turns.tail := by
  cases step_effect h <;> rfl

end Sys2Proof.Machine
end

