-- ==== Sys2Proof/Laws/Platform.lean ====
section
/-!
SUPPORT. What a turn of one core does on a platform, which core an address belongs to, and what a line of a host program does.
-/

namespace Sys2Proof.Machine

open Sys2Proof

/-! ## One core's turn -/

/-- A turn that is put first and taken is that turn's own work. -/
theorem coreTurn_eq (t : Turn) (s : State) : coreTurn t s =
    match takeTurn t s with
    | .next s' => some s'
    | .fault _ => none
    | .refused _ => none := rfl

/-- The host's turn is always taken. -/
theorem coreTurn_host (a : Access) (s : State) : ∃ t, hostAccess a s = .next t ∧ coreTurn (.host a) s = some t := by
  obtain ⟨t, h⟩ := hostAccess_next a s
  exact ⟨t, h, by simp [coreTurn_eq, takeTurn, h]⟩

/-- The engine's turn with a command in flight completes it. -/
theorem coreTurn_engine_busy {s : State} {i : Instr} (hb : s.status.busy = true) (hp : s.pend = some i) :
    coreTurn .engine s = some (completion i s) := by simp [coreTurn_eq, takeTurn, engineTurn_busy hb hp]

/-- The engine's turn with no command in flight changes nothing. -/
theorem coreTurn_engine_idle {s : State} (hb : s.status.busy = false) : coreTurn .engine s = some s := by
  simp [coreTurn_eq, takeTurn, engineTurn_idle hb]

/-- The reset turn is the platform's reset. -/
@[simp] theorem coreTurn_reset (s : State) : coreTurn .reset s = some (platformReset s) := rfl

/-- Everything an engine's turn can do: nothing, a completion, or a stop in a state with BUSY = 1 and PEND = none. -/
theorem coreTurn_engine_cases (s : State) :
    (s.status.busy = false ∧ coreTurn .engine s = some s) ∨
    (s.status.busy = true ∧ ∃ i, s.pend = some i ∧ coreTurn .engine s = some (completion i s)) ∨
    (s.status.busy = true ∧ s.pend = none ∧ coreTurn .engine s = none) := by
  cases hb : s.status.busy with
  | false => exact .inl ⟨rfl, coreTurn_engine_idle hb⟩
  | true =>
    cases hp : s.pend with
    | some i => exact .inr (.inl ⟨rfl, i, rfl, coreTurn_engine_busy hb hp⟩)
    | none => exact .inr (.inr ⟨rfl, rfl, by simp [coreTurn_eq, takeTurn, engineTurn, completeCommand, hb, hp]⟩)

/-! ## A turn on a platform -/

/-- Everything a turn of a core can do to a platform. -/
theorem Platform.turn_some {k : Nat} {t : Turn} {p q : Platform} (h : p.turn k t = some q) :
    ∃ c s, p.cores[k]? = some c ∧ coreTurn t { c.core with draws := p.draws } = some s ∧
      q = { cores := p.cores.set k { c with core := s }, draws := s.draws } := by
  unfold Platform.turn at h
  split at h
  · cases h
  · rename_i c hc
    obtain ⟨s, hs, rfl⟩ := Option.map_eq_some_iff.mp h
    exact ⟨c, s, hc, hs, rfl⟩

/-- The turn of a core that is there and goes on. -/
theorem Platform.turn_eq {k : Nat} {t : Turn} {p : Platform} {c : CoreInstance} {s : State} (hc : p.cores[k]? = some c)
    (hs : coreTurn t { c.core with draws := p.draws } = some s) :
    p.turn k t = some { cores := p.cores.set k { c with core := s }, draws := s.draws } := by
  simp [Platform.turn, hc, hs]

/-- A turn of one core leaves every other core as it is (R212). -/
theorem Platform.turn_other {j k : Nat} {t : Turn} {p q : Platform} (h : p.turn k t = some q) (hj : j ≠ k) :
    q.cores[j]? = p.cores[j]? := by
  obtain ⟨c, s, _, _, rfl⟩ := Platform.turn_some h
  exact List.getElem?_set_ne (Ne.symm hj)

/-! ## Addresses -/

/-- An offset of a window, seen from its base. -/
theorem offsetInWindow_base (base : Nat) {o : Nat} (h : o < 512) : offsetInWindow base (base + o) = some (windowOffset o) := by
  simp [offsetInWindow, windowOffset, Fin.ext_iff, Nat.mod_eq_of_lt h, h]

/-- Aligned windows at two bases are apart. -/
theorem offsetInWindow_other {b c o : Nat} (hb : b % 512 = 0) (hc : c % 512 = 0) (hne : b ≠ c) (h : o < 512) :
    offsetInWindow b (c + o) = none := by
  unfold offsetInWindow
  exact dif_neg (by omega)

/-- On a platform whose windows are aligned and apart, an address in one core's window is that core's (R50, R212). -/
theorem coreAt_window {cores : List CoreInstance} {k o : Nat} {c : CoreInstance}
    (hal : ∀ d ∈ cores, d.base % 512 = 0) (hnd : (cores.map CoreInstance.base).Nodup) (hk : cores[k]? = some c) (h : o < 512) :
    coreAt (c.base + o) cores = some (k, windowOffset o) := by
  induction cores generalizing k with
  | nil => simp at hk
  | cons d rest ih =>
    cases k with
    | zero =>
      obtain rfl : d = c := by simpa using hk
      simp [coreAt, offsetInWindow_base d.base h]
    | succ k =>
      have hk' : rest[k]? = some c := by simpa using hk
      have hmem := List.mem_of_getElem? hk'
      simp only [List.map_cons, List.nodup_cons] at hnd
      have hne : d.base ≠ c.base := fun e => hnd.1 (e ▸ List.mem_map_of_mem hmem)
      have hoff := offsetInWindow_other (hal d (by simp)) (hal c (List.mem_cons_of_mem _ hmem)) hne h
      simp [coreAt, hoff, ih (fun x hx => hal x (List.mem_cons_of_mem _ hx)) hnd.2 hk']

/-- What well-formedness of a platform says. -/
theorem Platform.wellFormed_iff (p : Platform) :
    p.wellFormed = true ↔ (∀ d ∈ p.cores, d.base % 512 = 0) ∧ (p.cores.map CoreInstance.base).Nodup := by
  simp [Platform.wellFormed]

/-! ## A line of a host program -/

/-- Everything a line of a host program can do to what is on the bus: nothing, or one access (R77). -/
theorem HostTask.step_cases {σ : Type} {access : AccessKind → Fin 512 → σ → Option (Response × σ)} {t t' : HostTask} {s s' : σ}
    (h : t.step access s = some (t', s')) :
    t'.program = t.program ∧ (s' = s ∨ ∃ kind off r, access kind off s = some (r, s')) := by
  have received : ∀ name r, (t.received name r).program = t.program := by
    intro name r; cases r <;> rfl
  unfold HostTask.step at h
  split at h
  · cases h
  · obtain ⟨a, ha, e⟩ := Option.map_eq_some_iff.mp h
    cases e; exact ⟨rfl, .inr ⟨_, _, a.1, ha⟩⟩
  · obtain ⟨a, ha, e⟩ := Option.map_eq_some_iff.mp h
    cases e; exact ⟨received _ _, .inr ⟨_, _, a.1, ha⟩⟩
  · cases h; exact ⟨rfl, .inl rfl⟩
  · cases h; exact ⟨rfl, .inl rfl⟩
  · obtain ⟨u, hu, e⟩ := Option.map_eq_some_iff.mp h
    cases e
    refine ⟨?_, .inl rfl⟩
    unfold HostTask.branch at hu
    split at hu
    · cases hu
    · split at hu
      · obtain ⟨k, _, rfl⟩ := Option.map_eq_some_iff.mp hu; rfl
      · cases hu; rfl

end Sys2Proof.Machine
end

