-- ==== Sys2Proof/Laws/FairRun.lean ====
section
/-!
SUPPORT. What a step of a core with its host does to its two halves, what the lines of a `WAIT` do, and how fairness is used.
-/

namespace Sys2Proof.Machine

open Sys2Proof

/-! ## Steps of a core with its host -/

/-- Everything a step of a core with its host can do: the task's line, with what it does to the core, the engine's turn, or a reset. -/
theorem HostSystem.step_cases {u : HostTurn} {h h' : HostSystem} (hs : h.step u = some h') :
    (u = .host ∧ h.task.step coreAccess h.core = some (h'.task, h'.core)) ∨
    (u = .engine ∧ h'.task = h.task ∧ coreTurn .engine h.core = some h'.core) ∨
    (u = .reset ∧ h'.task = h.task ∧ h'.core = platformReset h.core) := by
  cases u with
  | host =>
    obtain ⟨r, hr, rfl⟩ := Option.map_eq_some_iff.mp hs
    exact .inl ⟨rfl, hr⟩
  | engine =>
    obtain ⟨s, hr, rfl⟩ := Option.map_eq_some_iff.mp hs
    exact .inr (.inl ⟨rfl, rfl, hr⟩)
  | reset =>
    obtain rfl : { h with core := platformReset h.core } = h' := Option.some.inj hs
    exact .inr (.inr ⟨rfl, rfl, rfl⟩)

/-- A core access is the host's turn of that access, with its answer. -/
theorem coreAccess_some {kind : AccessKind} {off : Fin 512} {s s' : State} {r : Response}
    (h : coreAccess kind off s = some (r, s')) : hostAccess ⟨kind, off, 32⟩ s = .next s' ∧ r = s'.response := by
  obtain ⟨t, ht, e⟩ := coreTurn_host ⟨kind, off, 32⟩ s
  rw [coreAccess, e] at h
  cases h
  exact ⟨ht, rfl⟩

/-- A read of STATUS answers its word and changes nothing else (R55). -/
theorem coreAccess_status (s : State) : coreAccess .read (windowOffset 0x044) s =
    some (.data s.status.word, respond (.data s.status.word) s) := by
  have hr := hostRead_word (o := 0x044) (s := s) (.inr rfl) (byteAt_status (k := 0) (by omega)) (byteAt_status (k := 1) (by omega))
    (byteAt_status (k := 2) (by omega)) (byteAt_status (k := 3) (by omega))
  rw [busWordOf_lanes] at hr
  have ha : hostAccess ⟨.read, windowOffset 0x044, 32⟩ s = .next (respond (.data s.status.word) s) :=
    (hostAccess_readAt (by decide) (by decide) s).trans hr
  have hc : coreTurn (.host ⟨.read, windowOffset 0x044, 32⟩) s = some (respond (.data s.status.word) s) := by
    simp only [coreTurn_eq, takeTurn, ha]
  simp [coreAccess, hc]

/-! ## The lines of a `WAIT` -/

/-- The three lines of a `WAIT` (R77). -/
theorem WaitAt.lines {program : List HostLine} {k : Nat} {w : String} (h : WaitAt program k w) :
    program[k]? = some (.label w) ∧ program[k + 1]? = some (.rd (windowOffset 0x044) "s") ∧
    program[k + 2]? = some (.bnz "s" 0x1 w) := by
  have get : ∀ j, j < 3 → program[k + j]? = (waitLines w)[j]? := fun j hj => by
    rw [← h.1, List.getElem?_take, if_pos hj, List.getElem?_drop]
  exact ⟨get 0 (by omega), get 1 (by omega), get 2 (by omega)⟩

@[simp] theorem nameValue_bindName (names : List (String × BusWord)) (n : String) (v : BusWord) :
    nameValue (bindName names n v) n = some v := by simp [nameValue, bindName]

/-- Bit 0 of a word, as `BNZ … 0x1` tests it. -/
theorem and_one_ne_zero (v : BusWord) : v &&& 0x1 ≠ 0 ↔ v.getLsbD 0 = true := by
  constructor
  · intro h
    by_contra hv
    refine h (BitVec.eq_of_getLsbD_eq fun i _ => ?_)
    rw [BitVec.getLsbD_and]
    rcases Nat.eq_zero_or_pos i with rfl | hp
    · simp only [Bool.not_eq_true] at hv
      rw [hv]; rfl
    · have : BitVec.getLsbD (0x1 : BusWord) i = false := by
        show (0x1#32).getLsbD i = false
        simp only [BitVec.getLsbD_one]; simp; omega
      rw [this]; simp
  · intro h e
    have hb := congrArg (fun x => BitVec.getLsbD x 0) e
    simp only [BitVec.getLsbD_and, h] at hb
    exact absurd hb (by decide)

/-- Bit 0 of STATUS is BUSY (R27). -/
theorem Status.word_bit_zero (f : Status) : f.word.getLsbD 0 = f.busy := by
  simp only [Status.word, BitVec.getLsbD_append]
  cases f.busy <;> rfl

/-! ## Fairness -/

/-- A turn that stays enabled is taken for the first time after `n`. -/
theorem WeaklyFair.first {σ τ : Type} {enabled : σ → Prop} {t : τ} {run : Nat → σ} {turn : Nat → τ}
    (h : WeaklyFair enabled t run turn) {n : Nat} (he : ∀ m, n ≤ m → enabled (run m)) :
    ∃ m, n ≤ m ∧ turn m = t ∧ ∀ l, n ≤ l → l < m → turn l ≠ t := by
  classical
  have hex := h n he
  refine ⟨Nat.find hex, (Nat.find_spec hex).1, (Nat.find_spec hex).2, fun l hn hl ht => Nat.find_min hex hl ⟨hn, ht⟩⟩

end Sys2Proof.Machine
end

