-- ==== Sys2Proof/Laws/PerInstr.lean ====
section
/-!
SUPPORT. One family of statements made instruction by instruction: the command word of an instruction splits into the fields the
opcode table gives it, and they are well-formed.
-/

namespace Sys2Proof.Laws.EncodesLegally

open Sys2Proof

/-- The encoding of `i` is its fields, and they make a legal command word (R71, R73). -/
def Statement (i : Instr) : Prop := splitFields (encode i) = i.fields ∧ i.wellFormed = true

theorem keyexpE : Statement .keyexpE := ⟨by decide, by decide⟩
theorem keyexpD : Statement .keyexpD := ⟨by decide, by decide⟩
theorem enc : Statement .enc := ⟨by decide, by decide⟩
theorem dec : Statement .dec := ⟨by decide, by decide⟩

end Sys2Proof.Laws.EncodesLegally
end

