-- ==== Sys2Proof/Tests/Slice0.lean ====
section
/-!
SUPPORT. The model's own tests: expected results come from the spec (95_test_vectors.md, the rules' examples, or words written out
from the encodings), never from the model. After them, one witness for each statement that has hypotheses: a concrete state and
operands that meet them together.
-/

namespace Sys2Proof.Tests

open Sys2Proof Sys2Proof.Machine

/-! ## Helpers -/

/-- A state with every register 0 and no draw in it. -/
def zeroState : State :=
  { key := Vector.replicate 32 0, din := Vector.replicate 16 0, dout := Vector.replicate 16 0, st := default
    rk := Vector.replicate 15 default, status := Status.reset, pend := none, turns := [], response := .idle, draws := 0 }

/-- `zeroState` with a STATUS given by its fields. -/
def withFlags (busy kv kd ov err : Bool) (ecode : BitVec 3) : State :=
  { zeroState with status := ⟨busy, kv, kd, ov, err, ecode⟩ }

/-- A state with the command `i` in flight. -/
def inFlight (i : Instr) (kv kd : Bool) : State := { withFlags true kv kd false false 0 with pend := some i }

/-- An idle state whose schedule is the one of its key, in the mode `d`. -/
def expanded (d : Bool) : State := { withFlags false true d false false 0 with rk := expandKey zeroState.key d }

/-- What a step answers, where it answers a next state. -/
def next? (o : Result) : Option State :=
  match o with
  | .next s => some s
  | .fault _ => none
  | .refused _ => none

/-- The word of STATUS after an answer. -/
def statusAfter (o : Result) : Option BusWord := (next? o).map fun s => s.status.word

/-! ## Encoding: words written out bit by bit from R71 and R73 -/

/-- KEYEXP.E: RSV = 0, D = 0, OP = 01. -/
theorem test_decode_keyexpE : decode 0b00000000000000000000000000000_0_01#32 = some .keyexpE := by decide
/-- KEYEXP.D: RSV = 0, D = 1, OP = 01. -/
theorem test_decode_keyexpD : decode 0b00000000000000000000000000000_1_01#32 = some .keyexpD := by decide
/-- ENC: RSV = 0, D = 0, OP = 10. -/
theorem test_decode_enc : decode 0b00000000000000000000000000000_0_10#32 = some .enc := by decide
/-- DEC: RSV = 0, D = 0, OP = 11. -/
theorem test_decode_dec : decode 0b00000000000000000000000000000_0_11#32 = some .dec := by decide
/-- T-D25: the illegal words. -/
theorem test_decode_illegal :
    [0x00000000#32, 0x00000004, 0x00000006, 0x00000007, 0x00000009, 0x80000001, 0xFFFFFFFF].map decode =
      [none, none, none, none, none, none, none] := by decide
/-- The opcode table's words, numbered as it numbers them. -/
theorem test_decodeTableWord :
    [decodeTableWord 32 1, decodeTableWord 32 5, decodeTableWord 32 2, decodeTableWord 32 3, decodeTableWord 32 6,
      decodeTableWord 64 (2 ^ 32 + 1)] = [some .keyexpE, some .keyexpD, some .enc, some .dec, none, none] := by decide
/-- R52, R76: the bytes of a command word, low byte first; fewer than four are no command word. -/
theorem test_decodeBytes :
    decodeBytes [0x05, 0x00, 0x00, 0x00, 0xAA] = some (.keyexpD, [0xAA]) ∧ decodeBytes [0x05, 0x00, 0x00] = none := by decide

/-! ## Well-formedness: an ill-formed term for each check -/

/-- OP = 00 is refused. -/
theorem test_wellFormed_op : (⟨0b00, false, 0⟩ : CmdFields).opLegal = false ∧
    (⟨0b00, false, 0⟩ : CmdFields).wellFormed = false := by decide
/-- D = 1 with ENC is refused. -/
theorem test_wellFormed_mode : (⟨0b10, true, 0⟩ : CmdFields).modeLegal = false ∧
    (⟨0b10, true, 0⟩ : CmdFields).wellFormed = false := by decide
/-- RSV ≠ 0 is refused. -/
theorem test_wellFormed_reserved : (⟨0b01, false, 1⟩ : CmdFields).reservedZero = false ∧
    (⟨0b01, false, 1⟩ : CmdFields).wellFormed = false := by decide

/-! ## The first instruction after reset -/

/-- KEYEXP.E written right after reset is accepted, STATUS = 0x01 (T-D26), and it is the command the table's word stands for. -/
theorem test_first_keyexpE : statusAfter (step (State.reset.withFetchWord 32 1)) = some 0x01 := by decide
/-- KEYEXP.D likewise. -/
theorem test_first_keyexpD : statusAfter (step (State.reset.withFetchWord 32 5)) = some 0x01 := by decide
/-- ENC right after reset is refused with NO_SCHEDULE, STATUS = 0x50 (T-D26). -/
theorem test_first_enc : statusAfter (step (State.reset.withFetchWord 32 2)) = some 0x50 := by decide
/-- The illegal word 6 right after reset: ILLEGAL_CMD takes priority, STATUS = 0x30 (T-D26). -/
theorem test_first_illegal : statusAfter (step (State.reset.withFetchWord 32 6)) = some 0x30 := by decide

/-! ## Commands (T-D26 and the programs P1 to P3) -/

/-- After KEYEXP.E completes STATUS = 0x02 (T-D26). -/
theorem test_complete_keyexpE : statusAfter (engineTurn (inFlight .keyexpE false false)) = some 0x02 := by decide
/-- DEC with an encryption-mode schedule is refused, STATUS = 0x72 (T-D26). -/
theorem test_dec_mode : statusAfter (exec .dec (withFlags false true false false false 0)) = some 0x72 := by decide
/-- ENC with a decryption-mode schedule is refused, STATUS = 0x76 (T-D26). -/
theorem test_enc_mode : statusAfter (exec .enc (withFlags false true true false false 0)) = some 0x76 := by decide
/-- ENC accepted clears the error first, STATUS = 0x03 (T-D26). -/
theorem test_enc_clears : statusAfter (exec .enc (withFlags false true false false true 3)) = some 0x03 := by decide
/-- KEYEXP.D issued with OV = 1 keeps it, STATUS = 0x09 (P2 line 1); after completion 0x0E (P2 line 2). -/
theorem test_keyexpD_keeps_ov : statusAfter (exec .keyexpD (withFlags false true false true false 0)) = some 0x09 ∧
    statusAfter (engineTurn { inFlight .keyexpD false false with status := ⟨true, false, false, true, false, 0⟩ }) =
      some 0x0E := by decide
/-- DEC accepted, STATUS = 0x07 (P2 line 10), after completion 0x0E (P2 line 11). -/
theorem test_dec_accepted : statusAfter (exec .dec (withFlags false true true true false 0)) = some 0x07 ∧
    statusAfter (engineTurn (inFlight .dec true true)) = some 0x0E := by decide
/-- A BUSY_WRITE survives the completion, STATUS = 0x9E (P3 outcome B). -/
theorem test_busy_write_survives : statusAfter (engineTurn
    { inFlight .keyexpD false false with status := ⟨true, false, false, true, true, 4⟩ }) = some 0x9E := by decide

/-! ## Host accesses (T-D27, P3) -/

/-- A 32-bit read at 0x002, an 8-bit write at 0x020, a read at 0x048 and a write at 0x1F0 are bus errors (T-D27). -/
theorem test_bus_errors :
    [hostAccess ⟨.read, 0x002, 32⟩ zeroState, hostAccess ⟨.write 1, 0x020, 8⟩ zeroState, hostAccess (readAt 0x048) zeroState,
      hostAccess (writeAt 0x1F0 1) zeroState].map (fun o => (next? o).map State.response) =
      [some .busError, some .busError, some .busError, some .busError] := by decide
/-- A write of 0x03020100 at 0x000: KEY[0..3] = 00 01 02 03, and KV = KD = 0 (T-D27). -/
theorem test_key_write : (next? (hostAccess (writeAt 0x000 0x03020100) (withFlags false true true false false 0))).map
    (fun s => (s.key[0], s.key[1], s.key[2], s.key[3], s.key[4], s.status.word)) = some (0, 1, 2, 3, 0, 0) := by decide
/-- The last word of DIN: 0xFFEEDDCC at 0x02C gives DIN[12..15] = cc dd ee ff (P1 line 15). -/
theorem test_din_write : (next? (hostAccess (writeAt 0x02C 0xFFEEDDCC) zeroState)).map
    (fun s => (s.din[11], s.din[12], s.din[15])) = some (0, 0xCC, 0xFF) := by decide
/-- A write to STATUS is ignored, without error (T-D27). -/
theorem test_status_write : (next? (hostAccess (writeAt 0x044 0xFFFFFFFF) zeroState)).map
    (fun s => (s.status.word, s.response)) = some (0, .done) := by decide
/-- The error bits of BUSY_WRITE are 0x90 (T-D27). -/
theorem test_busy_write : statusAfter (hostAccess (writeAt 0x020 1) (inFlight .keyexpE false false)) = some 0x91 := by decide
/-- A CMD read returns 0 (T-D27). -/
theorem test_cmd_read : (next? (hostAccess (readAt 0x040) zeroState)).map State.response = some (.data 0) := by decide

/-! ## The cipher (T-S1 to T-S5, T-D1 to T-D21) -/

/-- The bytes 00 01 … 0f as a block. -/
def risingBlock : Bytes 16 := Vector.ofFn fun k => BitVec.ofNat 8 k.val

/-- T-D1. -/
theorem test_xtime : [0x00#8, 0x01, 0x57, 0x80, 0x8d, 0xff].map xtime = [0x00, 0x02, 0xae, 0x1b, 0x01, 0xe5] := by decide
/-- T-D2. -/
theorem test_gmul : [gmul 0x57 0x83, gmul 0x57 0x13, gmul 0xff 0xff, gmul 0x53 0xca, gmul 0x80 0x80, gmul 0x0e 0x1b] =
    [0xc1, 0xfe, 0x13, 0x01, 0x9a, 0x82] := by decide
/-- T-D3. -/
theorem test_sbox : [0x00#8, 0x10, 0x1d, 0x53, 0xff].map sbox = [0x63, 0xca, 0xa4, 0xed, 0x16] ∧
    [0x00#8, 0x10, 0x1d, 0x53, 0xff].map invSbox = [0x52, 0x7c, 0xde, 0x50, 0x7d] := by decide
/-- R111 on one byte that is not its own image: SBOX[0x53] = 0xed. -/
theorem test_affine : affine (gfInverse 0x53) = 0xed := by decide +kernel
/-- T-D4. -/
theorem test_subBytes : storeState (subBytes (loadState risingBlock)) =
    #v[0x63, 0x7c, 0x77, 0x7b, 0xf2, 0x6b, 0x6f, 0xc5, 0x30, 0x01, 0x67, 0x2b, 0xfe, 0xd7, 0xab, 0x76] := by decide +kernel
/-- T-D5. -/
theorem test_shiftRows : storeState (shiftRows (loadState risingBlock)) =
      #v[0x00, 0x05, 0x0a, 0x0f, 0x04, 0x09, 0x0e, 0x03, 0x08, 0x0d, 0x02, 0x07, 0x0c, 0x01, 0x06, 0x0b] ∧
    storeState (invShiftRows (loadState risingBlock)) =
      #v[0x00, 0x0d, 0x0a, 0x07, 0x04, 0x01, 0x0e, 0x0b, 0x08, 0x05, 0x02, 0x0f, 0x0c, 0x09, 0x06, 0x03] := by decide +kernel
/-- T-S1. -/
theorem test_mixColumns : mixColumns ⟨⟨0xdb, 0x13, 0x53, 0x45⟩, ⟨0xf2, 0x0a, 0x22, 0x5c⟩, ⟨1, 1, 1, 1⟩, ⟨0xc6, 0xc6, 0xc6, 0xc6⟩⟩ =
    ⟨⟨0x8e, 0x4d, 0xa1, 0xbc⟩, ⟨0x9f, 0xdc, 0x58, 0x9d⟩, ⟨1, 1, 1, 1⟩, ⟨0xc6, 0xc6, 0xc6, 0xc6⟩⟩ := by decide
/-- T-D6. -/
theorem test_invMixColumn : invMixColumn ⟨0xdb, 0x13, 0x53, 0x45⟩ = ⟨0x32, 0xa4, 0x1d, 0x55⟩ ∧
    invMixColumn ⟨0x80, 0, 0, 0⟩ = ⟨0x41, 0xec, 0xda, 0xf7⟩ := by decide
/-- T-S3: round key 2 of the key 00 … 1f, encryption mode. -/
theorem test_expandKey_encryption : (expandKey exampleKey false).get 2 =
    ⟨⟨165, 115, 194, 159⟩, ⟨161, 118, 196, 152⟩, ⟨169, 127, 206, 147⟩, ⟨165, 114, 192, 156⟩⟩ := by decide +kernel
/-- T-S4, T-S5: round keys 2 and 14 of the key 00 … 1f, decryption mode. -/
theorem test_expandKey_decryption : (expandKey exampleKey true).get 2 =
      ⟨⟨42, 40, 64, 201⟩, ⟨36, 35, 76, 192⟩, ⟨38, 36, 76, 197⟩, ⟨32, 39, 72, 196⟩⟩ ∧
    (expandKey exampleKey true).get 14 =
      ⟨⟨0x24, 0xfc, 0x79, 0xcc⟩, ⟨0xbf, 0x09, 0x79, 0xe9⟩, ⟨0x37, 0x1a, 0xc2, 0x3c⟩, ⟨0x6d, 0x68, 0xde, 0x36⟩⟩ := by decide +kernel
/-- T-D20: the FIPS-197 C.3 vector. -/
theorem test_encryptBlock : encryptBytes (expandKey exampleKey false) exampleBlock = exampleCipher := by decide +kernel
/-- T-D21. -/
theorem test_decryptBlock : decryptBytes (expandKey exampleKey true) exampleCipher = exampleBlock := by decide +kernel

/-! ## The host's side (T-D30, T-D31, R77) -/

/-- T-D30: "é" twenty times is c3 a9 sixteen times. -/
theorem test_keyFromString : keyFromString "éééééééééééééééééééé" =
    Vector.ofFn (fun k => if k.val % 2 = 0 then 0xc3 else 0xa9) := by decide +kernel
/-- T-D31: the 5-byte input 0102030405 encrypts to one block. -/
theorem test_encryptBlockStream : encryptBlockStream [1, 2, 3, 4, 5] exampleKey =
    [0x2b, 0xcd, 0x89, 0xb0, 0xc0, 0xdc, 0xf5, 0x0c, 0xc1, 0x16, 0x95, 0xe3, 0xf0, 0xbe, 0x05, 0x74] := by decide +kernel
/-- T-D31: fewer than 8 bytes decrypt to nothing. -/
theorem test_decryptBlockStream_short : decryptBlockStream [0, 0, 0, 0, 0, 0, 0] exampleKey = [] := by decide +kernel
/-- P1 lines 1 and 8: `LDKEY` of the key 00 … 1f. -/
theorem test_ldkey : (ldkeyLines exampleKey)[0]? = some (.wr 0x000 0x03020100) ∧
    (ldkeyLines exampleKey)[7]? = some (.wr 0x01C 0x1F1E1D1C) := by decide
/-- R77: `WAIT` on an idle core falls through, its name holding STATUS. -/
theorem test_wait : (((HostSystem.mk (HostTask.start (waitLines "w")) zeroState).hostStep.bind HostSystem.hostStep).bind
    HostSystem.hostStep).map (fun h => (h.task.position, nameValue h.task.names "s")) = some (3, some 0) := by decide
/-- R77: `WAIT` on a busy core goes back to its label. -/
theorem test_wait_busy : (((HostSystem.mk (HostTask.start (waitLines "w")) (inFlight .enc true false)).hostStep.bind
    HostSystem.hostStep).bind HostSystem.hostStep).map (fun h => (h.task.position, nameValue h.task.names "s")) =
      some (0, some 0x03) := by decide
/-- R50, R212: an access at BASE + offset is the access of the core whose window holds it. -/
theorem test_platform : (Platform.access (.write 0x01) 32 0x420 ⟨[⟨0x200, zeroState⟩, ⟨0x400, zeroState⟩], 0⟩).map
    (fun p => p.cores.map fun c => c.core.din[0]) = some [0, 1] := by decide
/-- R212: an instance's engine completes its own command, and the other instance stays busy. -/
theorem test_platform_engine : (Platform.engineStep 1
    ⟨[⟨0x200, inFlight .enc true false⟩, ⟨0x400, inFlight .enc true false⟩], 0⟩).map
      (fun p => p.cores.map fun c => c.core.status.word) = some [0x03, 0x0A] := by decide
/-- R59, R225: a reset core takes its draws from the platform's counter on, which moves past all 272. -/
theorem test_platform_reset : (Platform.resetStep 0 (Platform.afterReset [0x200, 0x400])).map (·.draws) = some 816 := by decide
/-- R175: each instance gets its own KEY write and KEYEXP and the blocks that are its own; the second's first block is block 1. -/
theorem test_instanceProgram :
    (instanceProgram .keyexpE .enc exampleKey [exampleBlock, exampleCipher] [0, 1] 1)[8]? = some (.wr 0x040 0x00000001) ∧
    (instanceProgram .keyexpE .enc exampleKey [exampleBlock, exampleCipher] [0, 1] 1)[18]? = some (.wr 0x020 0xCAB7A28E) ∧
    (instanceProgram .keyexpE .enc exampleKey [exampleBlock, exampleCipher] [0, 1] 1).length = 31 := by decide
/-- A host that stands at line `position` of the check of R227, with the STATUS word `v` in `s` and an idle core. -/
def checking (position : Nat) (v : BusWord) : HostSystem :=
  ⟨⟨checkLines "ok" "fail" ++ [.label "fail"], position, [("s", v)]⟩, zeroState⟩
/-- R227 step 3: with KV = 1 and ERR = 0 the host goes on at `ok`. -/
theorem test_check_ok : (((checking 0 0x02).hostStep).bind HostSystem.hostStep).map (fun h => h.task.position) = some 5 := by decide
/-- R227 step 3: with ERR = 1, or with KV = 0, it goes to `fail`. -/
theorem test_check_fail : (((checking 0 0x92).hostStep).map fun h => h.task.position) = some 6 ∧
    (((checking 1 0x08).hostStep).map fun h => h.task.position) = some 2 ∧
    ((((checking 2 0x08).hostStep).bind HostSystem.hostStep).bind HostSystem.hostStep).map (fun h => h.task.position) = some 6 := by
  decide
/-- R36, R225, with log entry 12 (DESIGN CHOICE): a reset between the two accesses of the jump leaves 0 in DIN, and the host goes on
at `ok`. -/
theorem test_check_reset : ((((checking 2 0x08).hostStep.bind HostSystem.resetStep).bind HostSystem.hostStep).bind
    HostSystem.hostStep).map (fun h => (h.task.position, nameValue h.task.names "t")) = some (5, some 0) := by decide
/-- R175: the outputs are joined in input order, not in the order of the instances. -/
theorem test_joinOutputs : (ParallelHost.mk
    [⟨0x200, ⟨[], 0, [("o10", 4), ("o11", 5), ("o12", 6), ("o13", 7)]⟩⟩,
     ⟨0x400, ⟨[], 0, [("o00", 0), ("o01", 1), ("o02", 2), ("o03", 3)]⟩⟩] ⟨[], 0⟩).output [1, 0] 2 =
    some [0, 0, 0, 0, 1, 0, 0, 0, 2, 0, 0, 0, 3, 0, 0, 0, 4, 0, 0, 0, 5, 0, 0, 0, 6, 0, 0, 0, 7, 0, 0, 0] := by decide

end Sys2Proof.Tests
end

