-- ==== Sys2Proof/Tests/Witnesses.lean ====
section
/-!
SUPPORT. For each statement that has hypotheses, a concrete state and operands that meet all of them together, clause by clause and
at the ends of the ranges.
-/

namespace Sys2Proof.Tests

open Sys2Proof Sys2Proof.Machine

/-! ## Command words -/

theorem witness_DecodeIsTheFourWordTable :
    (0x00000000#32 ≠ 0x00000001#32 ∧ 0x00000000#32 ≠ 0x00000005#32 ∧ 0x00000000#32 ≠ 0x00000002#32 ∧
      0x00000000#32 ≠ 0x00000003#32) ∧
    (0xFFFFFFFF#32 ≠ 0x00000001#32 ∧ 0xFFFFFFFF#32 ≠ 0x00000005#32 ∧ 0xFFFFFFFF#32 ≠ 0x00000002#32 ∧
      0xFFFFFFFF#32 ≠ 0x00000003#32) := by decide

theorem witness_IllegalWordsAreRefused : zeroState.status.busy = false ∧ decode 0xFFFFFFFF#32 = none ∧
    decode 0x00000000#32 = none ∧ decode 0x00000006#32 = none := by decide

theorem witness_StepRunsTheDecodedCommand :
    (zeroState.withTurn (.host (cmdAccess 2))).turns = .host (cmdAccess 2) :: [] ∧ decode 2#32 = some .enc ∧
    ((inFlight .dec true true).withTurn (.host (cmdAccess 5))).turns = .host (cmdAccess 5) :: [] ∧
    decode 5#32 = some .keyexpD := by decide

theorem witness_StepTakesTheNextTurn :
    (zeroState.withTurn (.host (readAt 0x1FC))).turns = .host (readAt 0x1FC) :: [] ∧
    (zeroState.withTurn .engine).turns = .engine :: [] ∧ (zeroState.withTurn .reset).turns = .reset :: [] ∧
    zeroState.turns = [] := by decide

theorem witness_PlatformResetAbandonsEverything :
    ((inFlight .enc true false).withTurn .reset).turns = .reset :: [] ∧
    ((inFlight .enc true false).withTurn .reset).status.busy = true := by decide

/-! ## Host accesses -/

theorem witness_ReadsReturnTheWindow_idle : zeroState.status.busy = false := by decide

theorem witness_ReadsReturnTheWindow_busy : (inFlight .enc true false).status.busy = true ∧
    (∃ j : Fin 4, 0x030 = 0x030 + 4 * j.val) ∧ (∃ j : Fin 4, 0x03C = 0x030 + 4 * j.val) ∧
    (∃ (i : Fin 15) (c : Fin 4), 0x100 = 0x100 + 16 * i.val + 4 * c.val) ∧
    (∃ (i : Fin 15) (c : Fin 4), 0x1EC = 0x100 + 16 * i.val + 4 * c.val) := by decide

theorem witness_BusWordIsLittleEndian_read : wordAtOffset zeroState 0x1EC = some 0 ∧ wordAtOffset zeroState 0x000 = some 0 := by
  decide

theorem witness_BusWordIsLittleEndian_write : ∃ t u, zeroState.status.busy = false ∧ 0x02C % 4 = 0 ∧ 0x02C < 0x030 ∧
    hostAccess (writeAt 0x02C 0x12345678) zeroState = .next t ∧ hostAccess (writeAt 0x000 0x12345678) zeroState = .next u :=
  ⟨_, _, rfl, rfl, by decide, rfl, rfl⟩

theorem witness_BusWordIsLittleEndian_answer : ∃ t u, zeroState.status.busy = false ∧ 0x1EC % 4 = 0 ∧ 0x1EC < 0x200 ∧
    hostAccess (readAt 0x1EC) zeroState = .next t ∧ t.response = .data 0 ∧
    hostAccess (readAt 0x020) zeroState = .next u ∧ u.response = .data 0 :=
  ⟨_, _, rfl, rfl, by decide, rfl, by decide, rfl, by decide⟩

theorem witness_HostAccessOutcomesInPriorityOrder : ∃ t, zeroState.status.busy = false ∧ zeroState.status.kv = false ∧
    engineTurn (inFlight .dec true true) = .next t := ⟨_, rfl, rfl, rfl⟩

theorem witness_KeyAndDinWritesStoreFourBytes : zeroState.status.busy = false ∧ (31 : Fin 32).val / 4 ≠ (0 : Fin 8).val ∧
    (0 : Fin 16).val / 4 ≠ (3 : Fin 4).val := by decide

theorem witness_HostWriteFrame : ∃ t u v, 0x01C % 4 = 0 ∧ 0x01C < 0x200 ∧ regionOf 0x01C ≠ .cmd ∧ regionOf 0x1FC ≠ .cmd ∧
    zeroState.status.busy = false ∧ (inFlight .enc true false).status.busy = true ∧
    hostAccess (writeAt 0x01C 1) zeroState = .next t ∧ hostAccess (writeAt 0x01C 1) (inFlight .enc true false) = .next u ∧
    hostAccess (writeAt 0x1FC 1) zeroState = .next v :=
  ⟨_, _, _, rfl, by decide, by decide, by decide, rfl, rfl, rfl, rfl, rfl⟩

theorem witness_BusyWritesAreDropped : (inFlight .keyexpE false false).status.busy = true ∧ 0x000 % 4 = 0 ∧
    (0x02C < 0x030 ∨ 0x02C = 0x040) ∧ 0x02C % 4 = 0 ∧ (0x040 < 0x030 ∨ 0x040 = 0x040) ∧ 0x040 % 4 = 0 := by decide

theorem witness_ReadOnlyWritesAreIgnored : (0x030 ≤ 0x03C ∧ 0x03C < 0x040) ∧ 0x03C % 4 = 0 ∧ 0x044 % 4 = 0 ∧
    (0x100 ≤ 0x1EC ∧ 0x1EC < 0x1F0) ∧ 0x1EC % 4 = 0 := by decide

theorem witness_BadAccessesAnswerBusError : (⟨.read, 0x000, 8⟩ : Access).width ≠ 32 ∧
    (⟨.read, 0x1EF, 32⟩ : Access).offset.val % 4 ≠ 0 ∧ 0x048 ≤ (readAt 0x048).offset.val ∧ (readAt 0x0FC).offset.val < 0x100 ∧
    0x1F0 ≤ (readAt 0x1F0).offset.val ∧ 0x1F0 ≤ (readAt 0x1FC).offset.val := by decide

/-! ## Commands -/

/-- The invariant of an idle state whose schedule is the one of its key. -/
theorem expanded_inv (d : Bool) : CoreInv (expanded d) where
  busyIffPending := ⟨fun _ => rfl, fun _ => rfl⟩
  noModeWithoutSchedule := fun h => by cases h
  noCodeWithoutError := fun _ => rfl
  scheduleMatchesKey := fun _ => rfl
  codeIsDefined := fun h => by cases h
  pendingHasItsSchedule := trivial
  noOutputWhileComputing := fun _ => rfl

theorem witness_IssueCommandChecksInOrder : zeroState.status.busy = false := by decide

theorem witness_KeyexpEncryptionCommand : zeroState.status.busy = false ∧
    (inFlight .keyexpE false false).status.busy = true ∧ (inFlight .keyexpE false false).pend = some .keyexpE := by decide

theorem witness_KeyexpEncryptionCommand_again : ∃ t u, CoreInv (expanded false) ∧ (expanded false).status.busy = false ∧
    (expanded false).status.kv = true ∧ (expanded false).status.kd = false ∧
    exec .keyexpE (expanded false) = .next t ∧ engineTurn t = .next u :=
  ⟨_, _, expanded_inv false, rfl, rfl, rfl, rfl, rfl⟩

/-- The state of the rule's example with a command in flight. -/
def exampleInFlight (i : Instr) (d : Bool) (block : Bytes 16) : State :=
  { inFlight i true d with key := exampleKey, din := block, rk := expandKey exampleKey d }

theorem witness_KeyexpEncryptionCommand_example : ∃ t, (exampleInFlight .keyexpE false exampleBlock).key = exampleKey ∧
    (exampleInFlight .keyexpE false exampleBlock).status.busy = true ∧
    (exampleInFlight .keyexpE false exampleBlock).pend = some .keyexpE ∧
    engineTurn (exampleInFlight .keyexpE false exampleBlock) = .next t := ⟨_, rfl, rfl, rfl, rfl⟩

theorem witness_KeyexpDecryptionCommand : zeroState.status.busy = false ∧
    (inFlight .keyexpD false false).status.busy = true ∧ (inFlight .keyexpD false false).pend = some .keyexpD := by decide

theorem witness_KeyexpDecryptionCommand_example : ∃ t, (exampleInFlight .keyexpD true exampleBlock).key = exampleKey ∧
    (exampleInFlight .keyexpD true exampleBlock).status.busy = true ∧
    (exampleInFlight .keyexpD true exampleBlock).pend = some .keyexpD ∧
    engineTurn (exampleInFlight .keyexpD true exampleBlock) = .next t := ⟨_, rfl, rfl, rfl, rfl⟩

theorem witness_EncCommand :
    (withFlags false true false false false 0).status.busy = false ∧ (withFlags false true false false false 0).status.kv = true ∧
    (withFlags false true false false false 0).status.kd = false ∧
    zeroState.status.busy = false ∧ zeroState.status.kv = false ∧
    (withFlags false true true false false 0).status.busy = false ∧ (withFlags false true true false false 0).status.kv = true ∧
    (withFlags false true true false false 0).status.kd = true ∧
    (inFlight .enc true false).status.busy = true ∧ (inFlight .enc true false).pend = some .enc := by decide

theorem witness_EncCommand_again : ∃ t u v, (inFlight .enc true false).status.busy = true ∧
    (inFlight .enc true false).pend = some .enc ∧ (inFlight .enc true false).status.kv = true ∧
    (inFlight .enc true false).status.kd = false ∧ engineTurn (inFlight .enc true false) = .next t ∧
    exec .enc t = .next u ∧ engineTurn u = .next v := ⟨_, _, _, rfl, rfl, rfl, rfl, rfl, rfl, rfl⟩

theorem witness_EncCommand_example : ∃ t, (exampleInFlight .enc false exampleBlock).rk = expandKey exampleKey false ∧
    (exampleInFlight .enc false exampleBlock).din = exampleBlock ∧ (exampleInFlight .enc false exampleBlock).status.busy = true ∧
    (exampleInFlight .enc false exampleBlock).pend = some .enc ∧
    engineTurn (exampleInFlight .enc false exampleBlock) = .next t := ⟨_, rfl, rfl, rfl, rfl, rfl⟩

theorem witness_DecCommand :
    (withFlags false true true false false 0).status.busy = false ∧ (withFlags false true true false false 0).status.kv = true ∧
    (withFlags false true true false false 0).status.kd = true ∧
    zeroState.status.busy = false ∧ zeroState.status.kv = false ∧
    (withFlags false true false false false 0).status.busy = false ∧ (withFlags false true false false false 0).status.kv = true ∧
    (withFlags false true false false false 0).status.kd = false ∧
    (inFlight .dec true true).status.busy = true ∧ (inFlight .dec true true).pend = some .dec := by decide

theorem witness_DecCommand_again : ∃ t u v, (inFlight .dec true true).status.busy = true ∧
    (inFlight .dec true true).pend = some .dec ∧ (inFlight .dec true true).status.kv = true ∧
    (inFlight .dec true true).status.kd = true ∧ engineTurn (inFlight .dec true true) = .next t ∧
    exec .dec t = .next u ∧ engineTurn u = .next v := ⟨_, _, _, rfl, rfl, rfl, rfl, rfl, rfl, rfl⟩

theorem witness_DecCommand_example : ∃ t, (exampleInFlight .dec true exampleCipher).rk = expandKey exampleKey true ∧
    (exampleInFlight .dec true exampleCipher).din = exampleCipher ∧ (exampleInFlight .dec true exampleCipher).status.busy = true ∧
    (exampleInFlight .dec true exampleCipher).pend = some .dec ∧
    engineTurn (exampleInFlight .dec true exampleCipher) = .next t := ⟨_, rfl, rfl, rfl, rfl, rfl⟩

theorem witness_CommandIssueFrame : ∃ t u v w, exec .keyexpE zeroState = .next t ∧
    exec .dec (withFlags false true true false false 0) = .next u ∧ exec .enc zeroState = .next v ∧
    exec .enc (inFlight .keyexpD false false) = .next w ∧ (inFlight .keyexpD false false).status.busy = true :=
  ⟨_, _, _, _, rfl, rfl, rfl, rfl, rfl⟩

theorem witness_CompletionFrame : ∃ t u, (inFlight .keyexpD false false).status.busy = true ∧
    (inFlight .keyexpD false false).pend = some .keyexpD ∧ engineTurn (inFlight .keyexpD false false) = .next t ∧
    (inFlight .dec true true).status.busy = true ∧ (inFlight .dec true true).pend = some .dec ∧
    engineTurn (inFlight .dec true true) = .next u := ⟨_, _, rfl, rfl, rfl, rfl, rfl, rfl⟩

theorem witness_CompletionIsOneAtomicStep : zeroState.status.busy = false ∧ (inFlight .dec true true).status.busy = true ∧
    (inFlight .dec true true).pend = some .dec := by decide

/-! ## Invariants and whole-machine rules -/

theorem witness_StepKeepsInvariant : ∃ t u, CoreInv (expanded true) ∧ step (expanded true) = .next t ∧
    CoreInv { expanded true with turns := [.host (cmdAccess 3)] } ∧
    step { expanded true with turns := [.host (cmdAccess 3)] } = .next u :=
  ⟨_, _, expanded_inv true, rfl, ⟨(expanded_inv true).1, (expanded_inv true).2, (expanded_inv true).3, (expanded_inv true).4,
    (expanded_inv true).5, (expanded_inv true).6, (expanded_inv true).7⟩, rfl⟩

theorem witness_ReachableStatesKeepTheFiveInvariants :
    Reached { State.reset with turns := [.host (cmdAccess 1), .engine] } none := .start _

/-- A state with OV = 1 and the record that DOUT is the result of: the most recent ENC was issued on these operands. -/
theorem witness_ReachableStatesKeepTheFiveInvariants_output :
    let s := { expanded false with status := ⟨false, true, false, true, false, 0⟩, dout := encryptBytes (expanded false).rk 0 }
    let g := some (BlockIssue.mk false 0 (expanded false).rk)
    ∃ t u, CoreInv s ∧ OutputMatchesIssue s g ∧ s.status.ov = true ∧ step s = .next t ∧ CoreInv (s.withTurn (.host (cmdAccess 2))) ∧
      OutputMatchesIssue (s.withTurn (.host (cmdAccess 2))) g ∧ step (s.withTurn (.host (cmdAccess 2))) = .next u ∧
      u.pend = some .enc :=
  have inv : ∀ ts, CoreInv { expanded false with
      status := ⟨false, true, false, true, false, 0⟩, dout := encryptBytes (expanded false).rk 0, turns := ts } := fun _ =>
    { busyIffPending := ⟨fun _ => rfl, fun _ => rfl⟩
      noModeWithoutSchedule := fun h => by cases h
      noCodeWithoutError := fun _ => rfl
      scheduleMatchesKey := fun _ => rfl
      codeIsDefined := fun h => by cases h
      pendingHasItsSchedule := trivial
      noOutputWhileComputing := fun h => by cases h <;> contradiction }
  ⟨_, _, inv [], ⟨fun _ => ⟨_, rfl, rfl⟩, fun h => (by cases h), fun h => (by cases h)⟩, rfl, rfl, inv _,
    ⟨fun _ => ⟨_, rfl, rfl⟩, fun h => (by cases h), fun h => (by cases h)⟩, rfl, rfl⟩

theorem witness_MachineNeverStops : CoreInv (expanded true) ∧
    step (withFlags true false false false false 0) = .fault .engineWithoutCommand := ⟨expanded_inv true, rfl⟩

theorem witness_ErrorIsClearedOnlyByCmdWriteOrReset : ∃ t u v w,
    step ((withFlags false false false false true 3).withTurn (.host (cmdAccess 1))) = .next t ∧
    t.status.err = false ∧ t.status.ecode = 0 ∧
    step ((withFlags true false false false true 4).withTurn .reset) = .next u ∧ u.status.err = false ∧
    hostAccess (cmdAccess 0) zeroState = .next v ∧ engineTurn (inFlight .enc true false) = .next w ∧
    zeroState.status.busy = false := ⟨_, _, _, _, rfl, rfl, rfl, rfl, rfl, rfl, rfl, rfl⟩

theorem witness_ScheduleFlagsChangeOnlyByTheirRules : ∃ t u v w x, exec .keyexpD zeroState = .next t ∧
    engineTurn (inFlight .keyexpD false false) = .next u ∧ hostAccess (writeAt 0x01C 7) zeroState = .next v ∧
    step (inFlight .keyexpD false false) = .next w ∧ w.status.kv ≠ (inFlight .keyexpD false false).status.kv ∧
    step (expanded false) = .next x ∧ (zeroState.status.kv = false → zeroState.status.kd = false) ∧
    step zeroState = .next zeroState ∧ zeroState.status.kv = false :=
  ⟨_, _, _, _, _, rfl, rfl, rfl, rfl, by decide, rfl, fun _ => rfl, rfl, rfl⟩

theorem witness_OutputFlagChangesOnlyByBlockCommands : ∃ t u v, exec .enc (withFlags false true false true false 0) = .next t ∧
    engineTurn (inFlight .enc true false) = .next u ∧ step (inFlight .enc true false) = .next v ∧
    v.status.ov ≠ (inFlight .enc true false).status.ov := ⟨_, _, _, rfl, rfl, rfl, by decide⟩

theorem witness_DataRegistersChangeOnlyByTheirRules : ∃ t u,
    step (zeroState.withTurn (.host (writeAt 0x000 1))) = .next t ∧ t.key ≠ zeroState.key ∧
    (∀ rest, (zeroState.withTurn (.host (writeAt 0x000 1))).turns ≠ .reset :: rest) ∧
    step (zeroState.withTurn (.host (writeAt 0x02C 1))) = .next u ∧ u.din ≠ zeroState.din :=
  ⟨_, _, rfl, by decide, fun _ h => (by cases h), rfl, by decide⟩

/-- The completion of a KEYEXP changes RK, and that of an ENC changes ST. -/
theorem witness_DataRegistersChangeOnlyByTheirRules_completion : ∃ t u, step (inFlight .keyexpE false false) = .next t ∧
    t.rk.get 2 ≠ (inFlight .keyexpE false false).rk.get 2 ∧ (∀ rest, (inFlight .keyexpE false false).turns ≠ .reset :: rest) ∧
    step (inFlight .enc true false) = .next u ∧ u.st ≠ (inFlight .enc true false).st :=
  ⟨_, _, rfl, by decide +kernel, fun _ h => (by cases h), rfl, by decide +kernel⟩

theorem witness_OperandsAreFrozenWhileBusy : ∃ t, (inFlight .enc true false).status.busy = true ∧
    step ((inFlight .enc true false).withTurn (.host (writeAt 0x020 5))) = .next t ∧ t.status.busy = true :=
  ⟨_, rfl, rfl, rfl⟩

theorem witness_AcceptedCommandsComplete : ((inFlight .enc true false).withTurn (.host (cmdAccess 1))).status.busy = true ∧
    ((inFlight .enc true false).withTurn (.host (cmdAccess 1))).pend = some .enc ∧
    Turn.reset ∉ ((inFlight .enc true false).withTurn (.host (cmdAccess 1))).turns := by decide

/-- The run that the turns `turn` make from a state; where a turn has no step it stays. -/
def runFrom {σ τ : Type} (step : τ → σ → Option σ) (turn : Nat → τ) (s : σ) : Nat → σ
  | 0 => s
  | n + 1 => (step (turn n) (runFrom step turn s n)).getD (runFrom step turn s n)

/-- It is a run where every turn has a step. -/
theorem runFrom_isRun {σ τ : Type} {step : τ → σ → Option σ} {turn : Nat → τ} {s : σ}
    (h : ∀ n, (step (turn n) (runFrom step turn s n)).isSome = true) : IsRun step (runFrom step turn s) turn := fun n => by
  obtain ⟨t, ht⟩ := Option.isSome_iff_exists.mp (h n)
  rw [runFrom, ht]; rfl

/-- The host polls once while BUSY = 1, the engine completes, the host polls again and is done; then the core is idle for ever. -/
def pollingTurn (n : Nat) : HostTurn := if n = 3 then .engine else if n < 7 then .host else .engine

/-- A host that waits for an ENC in flight. -/
def pollingRun : Nat → HostSystem :=
  runFrom HostSystem.step pollingTurn ⟨HostTask.start (waitLines "w"), inFlight .enc true false⟩

/-- From the seventh step on the host stands after its last line and the core is idle. -/
theorem pollingRun_done (n : Nat) : pollingRun (7 + n) = pollingRun 7 := by
  induction n with
  | zero => rfl
  | succ n ih =>
    have hb : (pollingRun 7).core.status.busy = false := by decide +kernel
    have hs : (pollingRun 7).step .engine = some (pollingRun 7) := by
      simp [HostSystem.step, HostSystem.engineStep, coreTurn_engine_idle hb]
    have ht : pollingTurn (7 + n) = .engine := by simp [pollingTurn]
    have hstep : pollingRun (7 + n + 1) = ((pollingRun (7 + n)).step (pollingTurn (7 + n))).getD (pollingRun (7 + n)) := rfl
    rw [← Nat.add_assoc, hstep, ih, ht, hs]; rfl

theorem witness_AcceptedCommandsComplete_polling : HostSystem.FairRun pollingRun pollingTurn ∧
    (pollingRun 0).core.status.busy = true ∧ (pollingRun 0).core.pend = some .enc ∧ (∀ m, 0 ≤ m → pollingTurn m ≠ .reset) ∧
    WaitAt (pollingRun 0).task.program 0 "w" ∧ (pollingRun 0).task.position = 0 := by
  have late : ∀ n, ∃ m, n ≤ m ∧ pollingRun m = pollingRun 7 := fun n => ⟨7 + n, by omega, pollingRun_done n⟩
  refine ⟨⟨runFrom_isRun fun n => ?_, fun n h => ?_, fun n h => ?_⟩, rfl, rfl, fun m _ => ?_, ⟨by decide, by decide⟩, rfl⟩
  · by_cases hn : n < 7
    · have early : ∀ k < 7, ((pollingRun k).step (pollingTurn k)).isSome = true := by decide +kernel
      exact early n hn
    · obtain ⟨k, rfl⟩ := Nat.exists_eq_add_of_le (Nat.le_of_not_lt hn)
      have ht : pollingTurn (7 + k) = .engine := by simp [pollingTurn]
      have hd : ((pollingRun 7).step .engine).isSome = true := by decide +kernel
      show ((pollingRun (7 + k)).step _).isSome = true
      rw [pollingRun_done, ht]; exact hd
  · exact ⟨7 + n, by omega, by simp [pollingTurn]⟩
  · obtain ⟨m, hm, he⟩ := late n
    have hd : ¬ (pollingRun 7).hostEnabled := by unfold HostSystem.hostEnabled; decide +kernel
    exact absurd (he ▸ h m hm) hd
  · unfold pollingTurn; split_ifs <;> simp

/-- A host with no task and one core. -/
def lone (s : State) : ParallelHost := ⟨[], ⟨[⟨0x200, s⟩], 0⟩⟩

/-- An ENC in flight on one core, and no task: the engine completes and the platform is idle for ever. -/
def platformRun : Nat → ParallelHost := runFrom ParallelHost.step (fun _ => .engine 0) (lone (inFlight .enc true false))

theorem lone_engine {s t : State} (h : coreTurn .engine { s with draws := 0 } = some t) (hd : t.draws = 0) :
    (lone s).step (.engine 0) = some (lone t) := by
  simp [ParallelHost.step, ParallelHost.engineStep, Platform.engineStep, Platform.turn, lone, h, hd]

theorem platformRun_done (n : Nat) : platformRun (1 + n) = lone (completion .enc (inFlight .enc true false)) := by
  have step : ∀ n s t, platformRun n = lone s → (lone s).step (.engine 0) = some (lone t) → platformRun (n + 1) = lone t :=
    fun n s t hn hs => by
      have e : platformRun (n + 1) = ((platformRun n).step (.engine 0)).getD (platformRun n) := rfl
      rw [e, hn, hs]; rfl
  induction n with
  | zero => exact step 0 _ _ rfl (lone_engine (coreTurn_engine_busy (s := { inFlight .enc true false with draws := 0 }) rfl rfl) rfl)
  | succ n ih =>
    exact step (1 + n) _ _ ih
      (lone_engine (coreTurn_engine_idle (s := { completion .enc (inFlight .enc true false) with draws := 0 }) rfl) rfl)

theorem witness_AcceptedCommandsComplete_platform : ParallelHost.FairRun platformRun (fun _ => .engine 0) ∧
    (platformRun 0).platform.cores[0]? = some ⟨0x200, inFlight .enc true false⟩ ∧ (inFlight .enc true false).status.busy = true := by
  have tasks : ∀ n, (platformRun n).tasks = [] ∧ (platformRun n).platform.cores.length = 1 := fun n => by
    cases n with
    | zero => exact ⟨rfl, rfl⟩
    | succ n => rw [Nat.add_comm, platformRun_done]; exact ⟨rfl, rfl⟩
  refine ⟨⟨runFrom_isRun fun n => ?_, fun k n h => ?_, fun k n h => ?_⟩, rfl, rfl⟩
  · obtain ⟨s, hs⟩ : ∃ s, platformRun n = lone s ∧ (s.status.busy = true → s.pend ≠ none) := by
      cases n with
      | zero => exact ⟨_, rfl, fun _ => by decide⟩
      | succ n => exact ⟨_, by rw [Nat.add_comm, platformRun_done], fun h => absurd h (by simp)⟩
    obtain ⟨hn, hp⟩ := hs
    show ((platformRun n).step (.engine 0)).isSome = true
    rw [hn]
    rcases coreTurn_engine_cases { s with draws := 0 } with ⟨_, h⟩ | ⟨_, i, _, h⟩ | ⟨hb, hq, _⟩
    · rw [lone_engine h rfl]; rfl
    · rw [lone_engine h (by simp)]; rfl
    · exact absurd hq (hp hb)
  · obtain ⟨c, hc, _⟩ := h n (Nat.le_refl n)
    have hk := (List.getElem?_eq_some_iff.mp hc).1
    rw [(tasks n).2] at hk
    exact ⟨n, Nat.le_refl n, by simp; omega⟩
  · have := h n (Nat.le_refl n)
    simp [ParallelHost.hostEnabled, ParallelHost.hostStep, (tasks n).1] at this

theorem witness_WriteAndCompletionRaceEitherWay : (inFlight .keyexpD false false).status.busy = true ∧
    (inFlight .keyexpD false false).pend = some .keyexpD := by decide

theorem witness_ResultsDependOnOperandsAlone : ∃ t u, (inFlight .enc true false).status.busy = true ∧
    { inFlight .enc true false with dout := Vector.replicate 16 1 }.pend = some .enc ∧
    { inFlight .enc true false with dout := Vector.replicate 16 1 }.key = (inFlight .enc true false).key ∧
    { inFlight .enc true false with dout := Vector.replicate 16 1 }.din = (inFlight .enc true false).din ∧
    { inFlight .enc true false with dout := Vector.replicate 16 1 }.rk = (inFlight .enc true false).rk ∧
    engineTurn (inFlight .enc true false) = .next t ∧
    engineTurn { inFlight .enc true false with dout := Vector.replicate 16 1 } = .next u :=
  ⟨_, _, rfl, rfl, rfl, rfl, rfl, rfl, rfl⟩

theorem witness_ResultsDependOnOperandsAlone_issue : ∃ u v, (expanded false).status.busy = false ∧
    exec .enc (expanded false) = .next u ∧ u.status.busy = true ∧ engineTurn u = .next v ∧
    (withFlags false true false true false 0).status.busy = false ∧ (withFlags false true false true false 0).key = zeroState.key ∧
    (withFlags false true false true false 0).din = zeroState.din ∧ (withFlags false true false true false 0).rk = zeroState.rk :=
  ⟨_, _, rfl, rfl, rfl, rfl, rfl, rfl, rfl, rfl⟩

theorem witness_DrawsNeverReachAVouchedResult : ∃ t, CoreInv (expanded false) ∧
    CoreInv { expanded false with dout := Vector.replicate 16 1 } ∧
    AgreeUpToDraws (expanded false) { expanded false with dout := Vector.replicate 16 1 } ∧ step (expanded false) = .next t :=
  ⟨_, expanded_inv false, ⟨(expanded_inv false).1, (expanded_inv false).2, (expanded_inv false).3, (expanded_inv false).4,
    (expanded_inv false).5, (expanded_inv false).6, (expanded_inv false).7⟩,
    ⟨rfl, rfl, rfl, rfl, rfl, fun _ => rfl, fun h => by cases h⟩, rfl⟩

theorem witness_DrawsAreNeverUsedTwice : ∃ t, step ((inFlight .enc true false).withTurn (.host (readAt 0x1EC))) = .next t ∧
    t.draws ≠ ((inFlight .enc true false).withTurn (.host (readAt 0x1EC))).draws ∧
    ((inFlight .enc true false).withTurn (.host (readAt 0x1EC))).status.busy = true ∧
    ((inFlight .enc true false).withTurn (.host (readAt 0x1EC))).turns = .host ⟨.read, 0x1EC, 32⟩ :: [] ∧
    (0x1EC : Fin 512).val % 4 = 0 ∧ regionOf (0x1EC : Fin 512).val = .rk ∧ regionOf (0x030 : Fin 512).val = .dout ∧
    (zeroState.withTurn .reset).turns = .reset :: [] := ⟨_, rfl, by decide, rfl, rfl, by decide, by decide, by decide, rfl⟩

theorem witness_StaleScheduleIsNeverUsed : ∃ t u, (expanded false).status.busy = false ∧
    hostAccess (writeAt 0x01C 9) (expanded false) = .next t ∧ zeroState.status.busy = false ∧ zeroState.status.kv = false ∧
    (inFlight .keyexpE false false).status.kv = false ∧ step (inFlight .keyexpE false false) = .next u ∧ u.status.kv = true ∧
    CoreInv (expanded false) := ⟨_, _, rfl, rfl, rfl, rfl, rfl, rfl, rfl, expanded_inv false⟩

/-- The invariant holds with an ENC in flight, which the last clause of the statement is about. -/
theorem witness_StaleScheduleIsNeverUsed_inFlight : CoreInv
    { expanded false with pend := some .enc, status := ⟨true, true, false, false, false, 0⟩ } where
  busyIffPending := ⟨fun h => (by cases h), fun h => (by cases h)⟩
  noModeWithoutSchedule := fun h => by cases h
  noCodeWithoutError := fun _ => rfl
  scheduleMatchesKey := fun _ => rfl
  codeIsDefined := fun h => by cases h
  pendingHasItsSchedule := ⟨rfl, rfl⟩
  noOutputWhileComputing := fun _ => rfl

/-! ## The cipher and the host's side -/

theorem witness_MultiplierFieldLaws : (0xFF : Byte) ≠ 0 := by decide

theorem witness_SboxIsAffineOfInverse : (0x53 : Byte) ≠ 0 ∧ gmul 0x53 0xCA = 0x01 := by decide

theorem witness_ColumnMixingsMultiplyByTheMatrices :
    columnOf (⟨default, default, default, ⟨0xFF, 0xFF, 0xFF, 0xFF⟩⟩ : Matrix4) 3 = ⟨0xFF, 0xFF, 0xFF, 0xFF⟩ := by decide

theorem witness_RoundConstantsDouble : 1 ≤ 6 ∧ 6 < 7 := by decide

/-- A table with the seven constants and 0xFF everywhere else. -/
def otherRcon (j : Nat) : Byte := if 1 ≤ j ∧ j ≤ 7 then rcon j else 0xFF

/-- The words of the zero key satisfy the recurrence with another table that has the seven constants. -/
theorem witness_RoundConstantsDouble_otherTable :
    (∀ j : Nat, 1 ≤ j → j ≤ 7 → otherRcon j = rcon j) ∧ (expandWords zeroState.key).length = 60 ∧
    (∀ j : Fin 8, wordAt (expandWords zeroState.key) j.val = keyWord zeroState.key j) ∧
    (∀ i : Nat, i < 60 → 8 ≤ i → wordAt (expandWords zeroState.key) i = xorWord (wordAt (expandWords zeroState.key) (i - 8))
      (if i % 8 = 0 then
          xorWord (subWord (rotWord (wordAt (expandWords zeroState.key) (i - 1)))) ⟨otherRcon (i / 8), 0, 0, 0⟩
        else if i % 8 = 4 then subWord (wordAt (expandWords zeroState.key) (i - 1))
        else wordAt (expandWords zeroState.key) (i - 1))) :=
  ⟨fun j h1 h7 => if_pos ⟨h1, h7⟩, by decide +kernel, by decide +kernel, by decide +kernel⟩

theorem witness_KeyExpansionRecurrence : (8 ≤ 8 ∧ 8 < 60 ∧ 8 % 8 = 0) ∧ (8 ≤ 52 ∧ 52 < 60 ∧ 52 % 8 = 4) ∧
    (8 ≤ 59 ∧ 59 < 60 ∧ 59 % 8 ≠ 0 ∧ 59 % 8 ≠ 4) := by decide

theorem witness_ScheduleModesDifferByInvMixColumns : 1 ≤ (1 : Fin 15).val ∧ (13 : Fin 15).val ≤ 13 := by decide

theorem witness_AddRoundKeyIsAnInvolution : ∀ c r : Fin 4, cell (default : Matrix4) c r = 0 := by decide

/-- The matrices of the forward rounds of one block, which is what the statement's `x` stands for. -/
def forwardRounds (m : Matrix4) (rk : Schedule) : Nat → Matrix4
  | 0 => addRoundKey m (rk.get 0)
  | n + 1 => addRoundKey (mixColumns (shiftRows (subBytes (forwardRounds m rk n)))) (rk.get (Fin.ofNat 15 (n + 1)))

/-- The matrices of the inverse rounds of one block. -/
def inverseRounds (m : Matrix4) (dk : Schedule) : Nat → Matrix4
  | 0 => addRoundKey m (dk.get 14)
  | n + 1 => addRoundKey (invMixColumns (invShiftRows (invSubBytes (inverseRounds m dk n)))) (dk.get (Fin.ofNat 15 (13 - n)))

theorem witness_RoundsUseTheirKeysInOrder (m : Matrix4) (rk : Schedule) :
    forwardRounds m rk 0 = addRoundKey m (rk.get 0) ∧
    (∀ i : Fin 15, 1 ≤ i.val → i.val ≤ 13 → forwardRounds m rk i.val =
      addRoundKey (mixColumns (shiftRows (subBytes (forwardRounds m rk (i.val - 1))))) (rk.get i)) ∧
    inverseRounds m rk 0 = addRoundKey m (rk.get 14) ∧
    (∀ i : Fin 15, 1 ≤ i.val → i.val ≤ 13 → inverseRounds m rk (14 - i.val) =
      addRoundKey (invMixColumns (invShiftRows (invSubBytes (inverseRounds m rk (13 - i.val))))) (rk.get i)) := by
  refine ⟨rfl, ?_, rfl, ?_⟩ <;> intro i h1 h13
  · obtain ⟨n, hn⟩ : ∃ n, i.val = n + 1 := ⟨i.val - 1, by omega⟩
    have hi : Fin.ofNat 15 (n + 1) = i := Fin.ext (by simp; omega)
    rw [hn, forwardRounds, hi]; rfl
  · obtain ⟨n, hn⟩ : ∃ n, 14 - i.val = n + 1 := ⟨13 - i.val, by omega⟩
    have hi : Fin.ofNat 15 (13 - n) = i := Fin.ext (by simp; omega)
    rw [hn, inverseRounds, hi, show 13 - i.val = n by omega]

theorem witness_StreamLengths : ([] : List Byte).length = 16 * 0 + 0 ∧ (0 : Nat) < 16 ∧
    (List.replicate 31 (0 : Byte)).length = 16 * 1 + 15 ∧ (15 : Nat) < 16 := by decide

theorem witness_StreamRoundTrip : (List.replicate 16 (0 : Byte)).length % 16 = 0 ∧ 0 < (List.replicate 16 (0 : Byte)).length := by
  decide

theorem witness_InstancesShareNothing : ∃ q u v w : Platform,
    (Platform.mk [⟨0x200, zeroState⟩, ⟨0x400, inFlight .enc true false⟩] 7).wellFormed = true ∧
    (Platform.mk [⟨0x200, zeroState⟩, ⟨0x400, inFlight .enc true false⟩] 7).cores[1]? = some ⟨0x400, inFlight .enc true false⟩ ∧
    0x1FC < 512 ∧ (inFlight .enc true false).status.busy = true ∧ (inFlight .enc true false).pend = some .enc ∧
    (Platform.mk [⟨0x200, zeroState⟩, ⟨0x400, inFlight .enc true false⟩] 7).access .read 32 (0x400 + 0x1FC) = some q ∧
    (Platform.mk [⟨0x200, zeroState⟩, ⟨0x400, inFlight .enc true false⟩] 7).turn 1 .engine = some u ∧ 0 ≠ 1 ∧
    ((Platform.mk [⟨0x200, zeroState⟩, ⟨0x400, inFlight .enc true false⟩] 7).engineStep 0).bind (Platform.engineStep 1) = some v ∧
    (Platform.mk [⟨0x200, zeroState⟩, ⟨0x400, inFlight .enc true false⟩] 7).resetStep 1 = some w :=
  ⟨_, _, _, _, by decide, rfl, by decide, rfl, rfl, rfl, rfl, by decide, rfl, rfl⟩

theorem witness_InstancesShareNothing_afterReset : (Platform.afterReset [0x200, 0x400]).cores[1]? =
    some ⟨0x400, State.resetFrom 272⟩ := rfl

end Sys2Proof.Tests
end

section
/-!
PROOFS. The block layout of R24 (O40).
-/

namespace Sys2Proof.Machine

open Sys2Proof

/-- The byte at column `c`, row `r` stands at `4c + r`. -/
theorem storeState_get_blockIndex (m : Matrix4) (c r : Fin 4) : (storeState m).get (blockIndex c r) = cell m c r := by
  have hc : (4 * c.val + r.val) / 4 = c.val := by omega
  have hr : (4 * c.val + r.val) % 4 = r.val := by omega
  simp [blockIndex, hc, hr]

theorem loadState_storeState (m : Matrix4) : loadState (storeState m) = m :=
  matrix_ext fun c r => by rw [cell_loadState, storeState_get_blockIndex]

/-- Every byte index is `4c + r` for its column and row. -/
theorem blockIndex_div_mod (k : Fin 16) : blockIndex ⟨k.val / 4, by omega⟩ ⟨k.val % 4, by omega⟩ = k :=
  Fin.ext (Nat.div_add_mod k.val 4)

theorem storeState_loadState (b : Bytes 16) : storeState (loadState b) = b :=
  bytes_ext fun k => by rw [storeState_get, cell_loadState, blockIndex_div_mod]

/-- Settles O40: the layout cell by cell, and from it the two inverses. -/
theorem blockLayoutIsColumnMajor : Obligations.BlockLayoutIsColumnMajor :=
  ⟨cell_loadState, storeState_get_blockIndex, loadState_storeState, storeState_loadState⟩

end Sys2Proof.Machine
end

section
/-!
PROOFS. The reset state of R36 (O6), with any number of draws made before it.
-/

namespace Sys2Proof.Machine

open Sys2Proof

theorem byteOf_drawnColumn (n : Nat) (r : Fin 4) : byteOf (drawnColumn n) r = Config.anyByte (n + r.val) := by
  fin_cases r <;> rfl

theorem columnOf_drawnMatrix (n : Nat) (c : Fin 4) : columnOf (drawnMatrix n) c = drawnColumn (n + 4 * c.val) := by
  fin_cases c <;> rfl

@[simp] theorem cell_drawnMatrix (n : Nat) (c r : Fin 4) :
    cell (drawnMatrix n) c r = Config.anyByte (n + 4 * c.val + r.val) := by
  rw [cell, columnOf_drawnMatrix, byteOf_drawnColumn]

/-- The unspecified bytes after a reset are the 272 draws from `n` on: DOUT, then ST, then RK (notes/assumptions/4.md). -/
theorem unspecifiedBytesAre_resetFrom (n : Nat) : UnspecifiedBytesAre (fun k => n + k.val) (State.resetFrom n) := by
  refine ⟨fun k => ?dout, fun c r => ?st, fun i c r => ?rk⟩
  case dout => simp [State.resetFrom]
  case st => simp [State.resetFrom, Nat.add_assoc]
  case rk => simp [State.resetFrom, Nat.add_assoc]

theorem unspecifiedBytesDrawn_resetFrom (n : Nat) :
    UnspecifiedBytesDrawn n (State.resetFrom n).draws (State.resetFrom n) := by
  have hdraws : (State.resetFrom n).draws = n + 272 := rfl
  refine ⟨fun k => n + k.val, ?inj, fun k => ?range, unspecifiedBytesAre_resetFrom n⟩
  case inj => exact fun j k h => Fin.ext (Nat.add_left_cancel h)
  case range => exact ⟨Nat.le_add_right n k.val, hdraws ▸ Nat.add_lt_add_left k.isLt n⟩

/-- A read of CMD answers 0, in every state, and changes nothing else (R26). -/
theorem hostAccess_read_cmd (s : State) : hostAccess (readAt 0x040) s = .next (respond (.data 0#32) s) := by
  have hregion : drawnWhileBusy (regionOf 0x040) = false := by decide
  have hzero : busWordOf 0 0 0 0 = 0#32 := by decide
  rw [hostAccess_readAt (by decide) (by decide),
    hostRead_word (.inr hregion) (byteAt_cmd (k := 0) (by decide)) (byteAt_cmd (k := 1) (by decide))
      (byteAt_cmd (k := 2) (by decide)) (byteAt_cmd (k := 3) (by decide)), hzero]

/-- Settles O6: KEY, DIN, STATUS and PEND by their definition, the unspecified bytes as the draws 0 to 271. -/
theorem resetTable : Obligations.ResetTable :=
  ⟨fun k => Vector.getElem_replicate k.isLt, fun k => Vector.getElem_replicate k.isLt,
    unspecifiedBytesDrawn_resetFrom 0, by decide, rfl, hostAccess_read_cmd State.reset⟩

end Sys2Proof.Machine
end

section
/-!
PROOFS. The invariant of the core: it holds at reset, and every step keeps it. One lemma for each kind of operation that a
step is made of (`Effect`); `step_keeps_coreInv` puts them together.
-/

namespace Sys2Proof.Machine

open Sys2Proof

/-- The invariant speaks of KEY, RK, STATUS and PEND alone. -/
theorem CoreInv.congr {s t : State} (h : CoreInv s) (hkey : t.key = s.key := by simp)
    (hrk : t.rk = s.rk := by simp) (hstatus : t.status = s.status := by simp) (hpend : t.pend = s.pend := by simp) :
    CoreInv t where
  busyIffPending := by simpa only [BusyIffPending, hstatus, hpend] using h.busyIffPending
  noModeWithoutSchedule := by simpa only [NoModeWithoutSchedule, hstatus] using h.noModeWithoutSchedule
  noCodeWithoutError := by simpa only [NoCodeWithoutError, hstatus] using h.noCodeWithoutError
  scheduleMatchesKey := by simpa only [ScheduleMatchesKey, hkey, hrk, hstatus] using h.scheduleMatchesKey
  codeIsDefined := by simpa only [CodeIsDefined, hstatus] using h.codeIsDefined
  pendingHasItsSchedule := by simpa only [PendingHasItsSchedule, hstatus, hpend] using h.pendingHasItsSchedule
  noOutputWhileComputing := by simpa only [NoOutputWhileComputing, hstatus, hpend] using h.noOutputWhileComputing

/-- With BUSY = 0 no command is in flight. -/
theorem CoreInv.pend_none {s : State} (h : CoreInv s) (hb : s.status.busy = false) : s.pend = none :=
  h.busyIffPending.mp hb

theorem CoreInv.respond {s : State} (h : CoreInv s) (r : Response) : CoreInv (respond r s) := h.congr

/-- Recording an error keeps the invariant when the code is one of R201's four. -/
theorem CoreInv.recordError {s : State} (h : CoreInv s) {code : BitVec 3}
    (hc : code ∈ [illegalCmd, noSchedule, modeMismatch, busyWrite]) : CoreInv (recordError code s) where
  busyIffPending := h.busyIffPending
  noModeWithoutSchedule := h.noModeWithoutSchedule
  noCodeWithoutError := fun he => by simp at he
  scheduleMatchesKey := h.scheduleMatchesKey
  codeIsDefined := fun _ => hc
  pendingHasItsSchedule := h.pendingHasItsSchedule
  noOutputWhileComputing := h.noOutputWhileComputing

theorem CoreInv.clearError {s : State} (h : CoreInv s) : CoreInv (clearError s) where
  busyIffPending := h.busyIffPending
  noModeWithoutSchedule := h.noModeWithoutSchedule
  noCodeWithoutError := fun _ => rfl
  scheduleMatchesKey := h.scheduleMatchesKey
  codeIsDefined := fun he => by simp at he
  pendingHasItsSchedule := h.pendingHasItsSchedule
  noOutputWhileComputing := h.noOutputWhileComputing

/-- A KEY write: whatever is in KEY now, KV = 0 asks nothing of RK. -/
theorem CoreInv.keyWritten {s : State} (h : CoreInv s) (hb : s.status.busy = false) (key : Bytes 32) :
    CoreInv (invalidateSchedule { s with key := key }) where
  busyIffPending := h.busyIffPending
  noModeWithoutSchedule := fun _ => rfl
  noCodeWithoutError := h.noCodeWithoutError
  scheduleMatchesKey := fun hv => by simp at hv
  codeIsDefined := h.codeIsDefined
  pendingHasItsSchedule := by simp [PendingHasItsSchedule, h.pend_none hb]
  noOutputWhileComputing := h.noOutputWhileComputing

theorem CoreInv.issuedKeyexp {s : State} (h : CoreInv s) {i : Instr} (hi : i = .keyexpE ∨ i = .keyexpD) :
    CoreInv (invalidateSchedule (accept i s)) where
  busyIffPending := by simp [BusyIffPending]
  noModeWithoutSchedule := fun _ => rfl
  noCodeWithoutError := h.noCodeWithoutError
  scheduleMatchesKey := fun hv => by simp at hv
  codeIsDefined := h.codeIsDefined
  pendingHasItsSchedule := by rcases hi with rfl | rfl <;> rfl
  noOutputWhileComputing := fun hp => by rcases hi with rfl | rfl <;> simp at hp

/-- An accepted ENC or DEC: the check of R150 is what the command in flight needs of the schedule. -/
theorem CoreInv.issuedBlock {s : State} (h : CoreInv s) {i : Instr} (hv : s.status.kv = true)
    (hi : i = .enc ∧ s.status.kd = false ∨ i = .dec ∧ s.status.kd = true) :
    CoreInv (setOutputValid false (accept i s)) where
  busyIffPending := by simp [BusyIffPending]
  noModeWithoutSchedule := h.noModeWithoutSchedule
  noCodeWithoutError := h.noCodeWithoutError
  scheduleMatchesKey := h.scheduleMatchesKey
  codeIsDefined := h.codeIsDefined
  pendingHasItsSchedule := by rcases hi with ⟨rfl, hd⟩ | ⟨rfl, hd⟩ <;> exact ⟨hv, hd⟩
  noOutputWhileComputing := fun _ => rfl

/-- A completed KEYEXP: RK is the schedule of the KEY that stands, in the mode that KD says. -/
theorem CoreInv.completedKeyexp {s : State} (h : CoreInv s) (d : Bool) :
    CoreInv (retire (writeSchedule d (expandKey s.key d) s)) where
  busyIffPending := by simp [BusyIffPending]
  noModeWithoutSchedule := fun hv => by simp at hv
  noCodeWithoutError := h.noCodeWithoutError
  scheduleMatchesKey := fun _ => rfl
  codeIsDefined := h.codeIsDefined
  pendingHasItsSchedule := trivial
  noOutputWhileComputing := fun hp => by simp at hp

theorem CoreInv.completedBlock {s : State} (h : CoreInv s) (m : Matrix4) : CoreInv (retire (writeBlock m s)) where
  busyIffPending := by simp [BusyIffPending]
  noModeWithoutSchedule := by simpa [NoModeWithoutSchedule] using h.noModeWithoutSchedule
  noCodeWithoutError := by simpa [NoCodeWithoutError] using h.noCodeWithoutError
  scheduleMatchesKey := by simpa [ScheduleMatchesKey] using h.scheduleMatchesKey
  codeIsDefined := by simpa [CodeIsDefined] using h.codeIsDefined
  pendingHasItsSchedule := trivial
  noOutputWhileComputing := fun hp => by simp at hp

/-- With STATUS and PEND at their reset values the invariant asks nothing of KEY and RK. -/
theorem coreInv_of_resetStatus {s : State} (hstatus : s.status = Status.reset) (hpend : s.pend = none) : CoreInv s where
  busyIffPending := by simp [BusyIffPending, hstatus, hpend]
  noModeWithoutSchedule := fun _ => by simp [hstatus]
  noCodeWithoutError := fun _ => by simp [hstatus]
  scheduleMatchesKey := fun hv => by simp [hstatus] at hv
  codeIsDefined := fun he => by simp [hstatus] at he
  pendingHasItsSchedule := by simp [PendingHasItsSchedule, hpend]
  noOutputWhileComputing := fun _ => by simp [hstatus]

theorem coreInv_reset (ts : List Turn) : CoreInv { State.reset with turns := ts } := coreInv_of_resetStatus rfl rfl

theorem Effect.keeps_coreInv {s t : State} (he : Effect s t) (h : CoreInv s) : CoreInv t := by
  cases he with
  | answered r => exact h.respond r
  | drawn => exact h.congr
  | dropped => exact (h.respond .done).recordError (by simp)
  | keyWritten o v hb => exact (h.respond .done).keyWritten hb _
  | dinWritten => exact h.congr
  | refusedCommand code _ hc => exact (h.respond .done).clearError.recordError (List.mem_append_left [busyWrite] hc)
  | issuedKeyexp i _ hi => exact (h.respond .done).clearError.issuedKeyexp hi
  | issuedEnc _ hv hd => exact (h.respond .done).clearError.issuedBlock hv (.inl ⟨rfl, hd⟩)
  | issuedDec _ hv hd => exact (h.respond .done).clearError.issuedBlock hv (.inr ⟨rfl, hd⟩)
  | idle => exact h
  | completedKeyexpE => exact h.completedKeyexp false
  | completedKeyexpD => exact h.completedKeyexp true
  | completedEnc => exact h.completedBlock _
  | completedDec => exact h.completedBlock _
  | reset => exact coreInv_of_resetStatus rfl rfl

theorem CoreInv.turnTaken {s : State} (h : CoreInv s) : CoreInv (turnTaken s) := h.congr

theorem step_keeps_coreInv {s t : State} (h : CoreInv s) (hstep : step s = .next t) : CoreInv t :=
  (step_effect hstep).keeps_coreInv h.turnTaken

end Sys2Proof.Machine
end

section
/-!
PROOFS. R37 item 5, with the record of the most recently issued block command, and the five invariants in every reachable
state (O27).
-/

namespace Sys2Proof.Machine

open Sys2Proof

/-! ## What a step does to the record -/

section
variable {s t : State} (g : Option BlockIssue)

/-- A step that leaves BUSY as it was issued nothing. -/
theorem recordIssue_of_busy_eq (h : t.status.busy = s.status.busy) : recordIssue s t g = g := by
  cases hb : s.status.busy <;> simp [recordIssue, issuedBy, h, hb]

/-- A step that ends idle issued nothing. -/
theorem recordIssue_of_idle (h : t.status.busy = false) : recordIssue s t g = g := by
  simp [recordIssue, issuedBy, h]

theorem recordIssue_of_keyexp {i : Instr} (hi : i = .keyexpE ∨ i = .keyexpD) (hp : t.pend = some i) :
    recordIssue s t g = g := by
  by_cases hb : s.status.busy = false ∧ t.status.busy = true
  · rcases hi with rfl | rfl <;> simp [recordIssue, issuedBy, hb, hp]
  · simp [recordIssue, issuedBy, hb]

theorem recordIssue_of_enc (hs : s.status.busy = false) (ht : t.status.busy = true) (hp : t.pend = some .enc) :
    recordIssue s t g = some ⟨false, s.din, s.rk⟩ := by simp [recordIssue, issuedBy, hs, ht, hp]

theorem recordIssue_of_dec (hs : s.status.busy = false) (ht : t.status.busy = true) (hp : t.pend = some .dec) :
    recordIssue s t g = some ⟨true, s.din, s.rk⟩ := by simp [recordIssue, issuedBy, hs, ht, hp]

end

/-! ## What keeps R37 item 5 -/

/-- R37 item 5 speaks of OV, DOUT, DIN, RK and PEND alone. -/
theorem OutputMatchesIssue.congr {s t : State} {g : Option BlockIssue} (h : OutputMatchesIssue s g)
    (hov : t.status.ov = s.status.ov := by simp) (hdout : t.dout = s.dout := by simp) (hdin : t.din = s.din := by simp)
    (hrk : t.rk = s.rk := by simp) (hpend : t.pend = s.pend := by simp) : OutputMatchesIssue t g := by
  simpa only [OutputMatchesIssue, hov, hdout, hdin, hrk, hpend] using h

/-- A step that changes none of these, nor BUSY, keeps it, with the record as it was. -/
theorem OutputMatchesIssue.of_sameOperands {s t : State} {g : Option BlockIssue} (h : OutputMatchesIssue s g)
    (hbusy : t.status.busy = s.status.busy := by simp) (hov : t.status.ov = s.status.ov := by simp)
    (hdout : t.dout = s.dout := by simp) (hdin : t.din = s.din := by simp) (hrk : t.rk = s.rk := by simp)
    (hpend : t.pend = s.pend := by simp) :
    OutputMatchesIssue t (recordIssue s t g) := by
  rw [recordIssue_of_busy_eq g hbusy]
  exact h.congr hov hdout hdin hrk hpend

/-- With no block command in flight it speaks of OV and DOUT alone: DIN and RK may have changed. -/
theorem OutputMatchesIssue.of_noBlockPending {s t : State} {g : Option BlockIssue} (h : OutputMatchesIssue s g)
    (hrec : recordIssue s t g = g) (henc : t.pend ≠ some .enc) (hdec : t.pend ≠ some .dec)
    (hov : t.status.ov = s.status.ov := by simp) (hdout : t.dout = s.dout := by simp) :
    OutputMatchesIssue t (recordIssue s t g) := by
  rw [hrec]
  obtain ⟨hresult, -, -⟩ := h
  exact ⟨by simpa only [hov, hdout] using hresult, fun hp => absurd hp henc, fun hp => absurd hp hdec⟩

/-- With OV = 0 and no command in flight it holds of any record. -/
theorem outputMatchesIssue_of_noOutput {s : State} {g : Option BlockIssue} (hov : s.status.ov = false)
    (hpend : s.pend = none) : OutputMatchesIssue s g :=
  ⟨fun h => by simp [hov] at h, fun h => by simp [hpend] at h, fun h => by simp [hpend] at h⟩

/-- With no command in flight it holds of a record whose result is in DOUT. -/
theorem outputMatchesIssue_of_result {s : State} {b : BlockIssue} (hdout : s.dout = b.result) (hpend : s.pend = none) :
    OutputMatchesIssue s (some b) :=
  ⟨fun _ => ⟨b, rfl, hdout⟩, fun h => by simp [hpend] at h, fun h => by simp [hpend] at h⟩

/-- The result of an ENC's record is what the completion of ENC stores in DOUT (R155). -/
theorem BlockIssue.result_enc (din : Bytes 16) (rk : Schedule) :
    (BlockIssue.mk false din rk).result = storeState (encryptBlock (loadState din) rk) := rfl

/-- The result of a DEC's record is what the completion of DEC stores in DOUT (R156). -/
theorem BlockIssue.result_dec (din : Bytes 16) (rk : Schedule) :
    (BlockIssue.mk true din rk).result = storeState (decryptBlock (loadState din) rk) := rfl

theorem Effect.keeps_outputMatchesIssue {s t : State} {g : Option BlockIssue} (he : Effect s t) (hinv : CoreInv s)
    (h : OutputMatchesIssue s g) : OutputMatchesIssue t (recordIssue s t g) := by
  cases he with
  | answered r => exact h.of_sameOperands
  | drawn => exact h.of_sameOperands
  | dropped => exact h.of_sameOperands
  | keyWritten => exact h.of_sameOperands
  | dinWritten o v hb =>
    have hp := hinv.pend_none hb
    exact h.of_noBlockPending (recordIssue_of_busy_eq g (by simp)) (by simp [hp]) (by simp [hp])
  | refusedCommand => exact h.of_sameOperands
  | issuedKeyexp i _ hi =>
    have hblock : i ≠ .enc ∧ i ≠ .dec := by rcases hi with rfl | rfl <;> decide
    exact h.of_noBlockPending (recordIssue_of_keyexp g hi rfl) (by simpa using hblock.1) (by simpa using hblock.2)
  | issuedEnc hb =>
    rw [recordIssue_of_enc g hb (t := setOutputValid false _) rfl rfl]
    exact ⟨fun hov => by simp at hov, fun _ => rfl, fun hp => by simp at hp⟩
  | issuedDec hb =>
    rw [recordIssue_of_dec g hb (t := setOutputValid false _) rfl rfl]
    exact ⟨fun hov => by simp at hov, fun hp => by simp at hp, fun _ => rfl⟩
  | idle => exact h.of_sameOperands
  | completedKeyexpE => exact h.of_noBlockPending (recordIssue_of_idle g rfl) (by simp) (by simp)
  | completedKeyexpD => exact h.of_noBlockPending (recordIssue_of_idle g rfl) (by simp) (by simp)
  | completedEnc _ hp =>
    obtain ⟨-, henc, -⟩ := h
    rw [recordIssue_of_idle g (t := retire _) rfl, henc hp]
    exact outputMatchesIssue_of_result (BlockIssue.result_enc _ _).symm rfl
  | completedDec _ hp =>
    obtain ⟨-, -, hdec⟩ := h
    rw [recordIssue_of_idle g (t := retire _) rfl, hdec hp]
    exact outputMatchesIssue_of_result (BlockIssue.result_dec _ _).symm rfl
  | reset => exact outputMatchesIssue_of_noOutput rfl rfl

theorem step_keeps_outputMatchesIssue {s t : State} {g : Option BlockIssue} (hinv : CoreInv s)
    (h : OutputMatchesIssue s g) (hstep : step s = .next t) : OutputMatchesIssue t (recordIssue s t g) :=
  (step_effect hstep).keeps_outputMatchesIssue hinv.turnTaken h.congr

theorem outputMatchesIssue_reset (ts : List Turn) : OutputMatchesIssue { State.reset with turns := ts } none :=
  outputMatchesIssue_of_noOutput rfl rfl

/-! ## Reachable states -/

/-- Every state of a run from reset meets the invariant and, with the run's record, R37 item 5. -/
theorem Reached.coreInv_and_output {s : State} {g : Option BlockIssue} (h : Reached s g) :
    CoreInv s ∧ OutputMatchesIssue s g := by
  induction h with
  | start ts => exact ⟨coreInv_reset ts, outputMatchesIssue_reset ts⟩
  | next _ hstep ih =>
    obtain ⟨hinv, hout⟩ := ih
    exact ⟨step_keeps_coreInv hinv hstep, step_keeps_outputMatchesIssue hinv hout hstep⟩

/-- Settles O27: by induction on the run, with the invariant of the core beside R37 item 5. -/
theorem reachableStatesKeepTheFiveInvariants : Obligations.ReachableStatesKeepTheFiveInvariants := by
  refine ⟨outputMatchesIssue_reset, fun s t g => step_keeps_outputMatchesIssue, fun s g hreach => ?_⟩
  obtain ⟨hinv, hresult, -, -⟩ := hreach.coreInv_and_output
  exact ⟨hinv.busyIffPending, hinv.noModeWithoutSchedule, hinv.noCodeWithoutError, hinv.scheduleMatchesKey, hresult⟩

end Sys2Proof.Machine
end

section
/-!
PROOFS. Accesses that the core does not take: the bus error of R53 and R58 (O15), and the writes that R57 ignores (O14).
-/

namespace Sys2Proof.Machine

open Sys2Proof

/-- An access of another width, or at an offset that is no multiple of 4, is not taken (R53). -/
theorem Access.legal_eq_false {a : Access} (h : a.width ≠ 32 ∨ a.offset.val % 4 ≠ 0) : a.legal = false := by
  rcases h with h | h <;> simp [Access.legal, h]

theorem hostAccess_illegal {a : Access} (h : a.legal = false) (s : State) : hostAccess a s = .next (busError s) := by
  simp [hostAccess, h]

/-- Nothing is mapped at an unmapped offset, not even a byte (R58). -/
theorem byteAt_unmapped {o : Nat} (h : regionOf o = .unmapped) (s : State) : byteAt s o = none := by
  simp [byteAt, h]

theorem hostRead_unmapped {o : Nat} (h : regionOf o = .unmapped) (s : State) : hostRead o s = .next (busError s) := by
  have hdrawn : drawnWhileBusy (regionOf o) = false := by rw [h]; rfl
  simp [hostRead, hdrawn, wordAtOffset, byteAt_unmapped h]

theorem hostWrite_unmapped {o : Nat} (h : regionOf o = .unmapped) (v : BusWord) (s : State) :
    hostWrite o v s = .next (busError s) := by
  simp [hostWrite, h]

/-- An access to an unmapped offset gets a bus error whatever its kind and width are. -/
theorem hostAccess_unmapped {a : Access} (h : regionOf a.offset.val = .unmapped) (s : State) :
    hostAccess a s = .next (busError s) := by
  cases hl : a.legal with
  | false => exact hostAccess_illegal hl s
  | true =>
    cases hk : a.kind with
    | read => simp [hostAccess, hl, hk, hostRead_unmapped h]
    | write v => simp [hostAccess, hl, hk, hostWrite_unmapped h]

/-- Settles O15: an access that is not taken (R53), then one to an unmapped offset (R58). -/
theorem badAccessesAnswerBusError : Obligations.BadAccessesAnswerBusError := by
  rintro s a (hwidth | halign | hoffset)
  · exact hostAccess_illegal (Access.legal_eq_false (.inl hwidth)) s
  · exact hostAccess_illegal (Access.legal_eq_false (.inr halign)) s
  · exact hostAccess_unmapped (regionOf_unmapped hoffset) s

/-- Settles O14: each of the three ranges is one read-only register. -/
theorem readOnlyWritesAreIgnored : Obligations.ReadOnlyWritesAreIgnored := by
  intro s o v halign hrange
  have hregion : regionOf o = .dout ∨ regionOf o = .status ∨ regionOf o = .rk := by
    rcases hrange with ⟨hlo, hhi⟩ | rfl | ⟨hlo, hhi⟩
    · exact .inl (regionOf_dout hlo hhi)
    · exact .inr (.inl (regionOf_status (by decide) (by decide)))
    · exact .inr (.inr (regionOf_rk hlo hhi))
  exact (hostAccess_writeAt halign (by omega) v s).trans (hostWrite_readOnly hregion v s)

end Sys2Proof.Machine
end

section
/-!
PROOFS. What a word read answers, register by register (O8): the bytes of the window, or draws.
-/

namespace Sys2Proof.Machine

open Sys2Proof

/-! ## The two answers of a read -/

/-- An aligned read of four mapped bytes answers their word, where it is no draw. -/
theorem hostAccess_read_word {o : Nat} {s : State} {b0 b1 b2 b3 : Byte} (h4 : o % 4 = 0) (h : o < 512)
    (hd : s.status.busy = false ∨ drawnWhileBusy (regionOf o) = false) (h0 : byteAt s o = some b0)
    (h1 : byteAt s (o + 1) = some b1) (h2 : byteAt s (o + 2) = some b2) (h3 : byteAt s (o + 3) = some b3) :
    hostAccess (readAt o) s = .next (respond (.data (busWordOf b0 b1 b2 b3)) s) :=
  (hostAccess_readAt h4 h s).trans (hostRead_word hd h0 h1 h2 h3)

/-- A read answered by draws takes four, each of its own, with numbers from the counter up to its new value (R59). -/
theorem hostAccess_read_draws {o : Nat} {s : State} (h4 : o % 4 = 0) (h : o < 512) (hb : s.status.busy = true)
    (hd : drawnWhileBusy (regionOf o) = true) :
    ∃ (d : Fin 4 → Nat) (n : Nat), Function.Injective d ∧ (∀ k, s.draws ≤ d k ∧ d k < n) ∧
      hostAccess (readAt o) s = .next { s with
        response := .data (busWordOf (Config.anyByte (d 0)) (Config.anyByte (d 1)) (Config.anyByte (d 2))
          (Config.anyByte (d 3)))
        draws := n } := by
  refine ⟨fun k => s.draws + k.val, s.draws + 4, ?inj, fun k => ?range, ?answer⟩
  case inj => exact fun j k hjk => Fin.ext (Nat.add_left_cancel hjk)
  case range => exact ⟨Nat.le_add_right s.draws k.val, Nat.add_lt_add_left k.isLt s.draws⟩
  case answer => exact (hostAccess_readAt h4 h s).trans (hostRead_drawn hb hd)

theorem drawnWhileBusy_key {o : Nat} (h : o < 0x020) : drawnWhileBusy (regionOf o) = false := by
  rw [regionOf_key h]; rfl

theorem drawnWhileBusy_din {o : Nat} (h : 0x020 ≤ o) (h' : o < 0x030) : drawnWhileBusy (regionOf o) = false := by
  rw [regionOf_din h h']; rfl

theorem drawnWhileBusy_dout {o : Nat} (h : 0x030 ≤ o) (h' : o < 0x040) : drawnWhileBusy (regionOf o) = true := by
  rw [regionOf_dout h h']; rfl

theorem drawnWhileBusy_rk {o : Nat} (h : 0x100 ≤ o) (h' : o < 0x1F0) : drawnWhileBusy (regionOf o) = true := by
  rw [regionOf_rk h h']; rfl

/-! ## Register by register -/

theorem hostAccess_read_key (s : State) (j : Fin 8) : hostAccess (readAt (4 * j.val)) s = .next (respond
    (.data (busWordOf s.key[4 * j.val] s.key[4 * j.val + 1] s.key[4 * j.val + 2] s.key[4 * j.val + 3])) s) :=
  hostAccess_read_word (by omega) (by omega) (.inr (drawnWhileBusy_key (by omega)))
    (byteAt_key (by omega)) (byteAt_key (by omega)) (byteAt_key (by omega)) (byteAt_key (by omega))

theorem hostAccess_read_din (s : State) (j : Fin 4) : hostAccess (readAt (0x020 + 4 * j.val)) s = .next (respond
    (.data (busWordOf s.din[4 * j.val] s.din[4 * j.val + 1] s.din[4 * j.val + 2] s.din[4 * j.val + 3])) s) :=
  hostAccess_read_word (by omega) (by omega) (.inr (drawnWhileBusy_din (by omega) (by omega)))
    (byteAt_din (k := 4 * j.val) (by omega)) (byteAt_din (k := 4 * j.val + 1) (by omega))
    (byteAt_din (k := 4 * j.val + 2) (by omega)) (byteAt_din (k := 4 * j.val + 3) (by omega))

theorem hostAccess_read_status (s : State) : hostAccess (readAt 0x044) s = .next (respond (.data s.status.word) s) := by
  have hregion : drawnWhileBusy (regionOf 0x044) = false := by decide
  rw [hostAccess_read_word (by decide) (by decide) (.inr hregion) (byteAt_status (k := 0) (by decide))
    (byteAt_status (k := 1) (by decide)) (byteAt_status (k := 2) (by decide)) (byteAt_status (k := 3) (by decide)),
    busWordOf_lanes]

theorem hostAccess_read_dout {s : State} (hb : s.status.busy = false) (j : Fin 4) :
    hostAccess (readAt (0x030 + 4 * j.val)) s = .next (respond
      (.data (busWordOf s.dout[4 * j.val] s.dout[4 * j.val + 1] s.dout[4 * j.val + 2] s.dout[4 * j.val + 3])) s) :=
  hostAccess_read_word (by omega) (by omega) (.inl hb)
    (byteAt_dout (k := 4 * j.val) (by omega)) (byteAt_dout (k := 4 * j.val + 1) (by omega))
    (byteAt_dout (k := 4 * j.val + 2) (by omega)) (byteAt_dout (k := 4 * j.val + 3) (by omega))

theorem hostAccess_read_rk {s : State} (hb : s.status.busy = false) (i : Fin 15) (c : Fin 4) :
    hostAccess (readAt (0x100 + 16 * i.val + 4 * c.val)) s = .next (respond
      (.data (busWordOf (cell (s.rk.get i) c 0) (cell (s.rk.get i) c 1) (cell (s.rk.get i) c 2)
        (cell (s.rk.get i) c 3))) s) :=
  hostAccess_read_word (by omega) (by omega) (.inl hb)
    (byteAt_rk i c 0) (byteAt_rk i c 1) (byteAt_rk i c 2) (byteAt_rk i c 3)

/-- Settles O8: the read of each register, and the draws that answer for DOUT and RK while BUSY = 1. -/
theorem readsReturnTheWindow : Obligations.ReadsReturnTheWindow := by
  refine ⟨hostAccess_read_key, hostAccess_read_din, hostAccess_read_status, hostAccess_read_cmd,
    fun s j hb => hostAccess_read_dout hb j, fun s i c hb => hostAccess_read_rk hb i c, fun s o hb hword => ?drawn⟩
  case drawn =>
    rcases hword with ⟨j, rfl⟩ | ⟨i, c, rfl⟩
    · exact hostAccess_read_draws (by omega) (by omega) hb (drawnWhileBusy_dout (by omega) (by omega))
    · exact hostAccess_read_draws (by omega) (by omega) hb (drawnWhileBusy_rk (by omega) (by omega))

end Sys2Proof.Machine
end

section
/-!
PROOFS. Word writes to KEY and DIN while BUSY = 0 (O11), and the lanes of the bus word in reads and writes (O10).
-/

namespace Sys2Proof.Machine

open Sys2Proof

/-! ## The word that a write stores -/

/-- Byte `k + i` of a register after a word write at byte `k` is lane `i` of the word (R52, R54). -/
theorem putWord_getElem_lane {n : Nat} (b : Bytes n) (k : Nat) (v : BusWord) (i : Nat) (hi : i < 4) (h : k + i < n) :
    (putWord b k v)[k + i] = lane v i := by
  rw [putWord_getElem, if_pos (by omega), Nat.add_sub_cancel_left]

/-- A write at word `j` of a register stores the four lanes and leaves the bytes of every other word (R54). -/
theorem putWord_word {n j : Nat} (b : Bytes n) (v : BusWord) (h : 4 * j + 3 < n) :
    (putWord b (4 * j) v)[4 * j] = lane v 0 ∧ (putWord b (4 * j) v)[4 * j + 1] = lane v 1 ∧
    (putWord b (4 * j) v)[4 * j + 2] = lane v 2 ∧ (putWord b (4 * j) v)[4 * j + 3] = lane v 3 ∧
    ∀ k : Fin n, k.val / 4 ≠ j → (putWord b (4 * j) v).get k = b.get k := by
  refine ⟨?_, ?_, ?_, ?_, fun k hk => ?other⟩
  case other => exact putWord_getElem_outside b (4 * j) v k.val k.isLt (by omega)
  · exact putWord_getElem_lane b (4 * j) v 0 (by decide) (by omega)
  · exact putWord_getElem_lane b (4 * j) v 1 (by decide) (by omega)
  · exact putWord_getElem_lane b (4 * j) v 2 (by decide) (by omega)
  · exact putWord_getElem_lane b (4 * j) v 3 (by decide) (by omega)

/-- A KEY write while BUSY = 0 stores the word and clears KV and KD (R31, R54). -/
theorem hostAccess_write_key {o : Nat} {s : State} (h4 : o % 4 = 0) (h : o < 0x020) (hb : s.status.busy = false)
    (v : BusWord) : hostAccess (writeAt o v) s =
      .next (invalidateSchedule { respond .done s with key := putWord s.key o v }) := by
  rw [hostAccess_writeAt h4 (by omega), hostWrite_key h, writeKeyWord_idle (s := respond .done s) hb, respond_key]

/-- A DIN write while BUSY = 0 stores the word and does no more (R54, R60). -/
theorem hostAccess_write_din {k : Nat} {s : State} (h4 : k % 4 = 0) (h : k < 16) (hb : s.status.busy = false)
    (v : BusWord) : hostAccess (writeAt (0x020 + k) v) s =
      .next { respond .done s with din := putWord s.din k v } := by
  rw [hostAccess_writeAt (by omega) (by omega), hostWrite_din h, writeDinWord_idle (s := respond .done s) hb, respond_din]

/-- Settles O11: the register after the write is `putWord` at the word's first byte. -/
theorem keyAndDinWritesStoreFourBytes : Obligations.KeyAndDinWritesStoreFourBytes := by
  refine ⟨fun s j v hb => ⟨putWord s.key (4 * j.val) v, ?key, putWord_word s.key v (by omega)⟩,
    fun s j v hb => ⟨putWord s.din (4 * j.val) v, ?din, putWord_word s.din v (by omega)⟩⟩
  case key => exact hostAccess_write_key (by omega) (by omega) hb v
  case din => exact hostAccess_write_din (by omega) (by omega) hb v

/-! ## The lanes of a word of the window -/

/-- The word at an offset is `v` exactly where lane `i` of `v` is the byte at `o + i` (R52). -/
theorem wordAtOffset_eq_some_iff {s : State} {o : Nat} {v : BusWord} :
    wordAtOffset s o = some v ↔ ∀ i < 4, byteAt s (o + i) = some (lane v i) := by
  constructor
  · intro h
    unfold wordAtOffset at h
    split at h
    · next b0 b1 b2 b3 h0 h1 h2 h3 =>
      obtain rfl := Option.some.inj h
      obtain ⟨l0, l1, l2, l3⟩ := lanes_busWordOf b0 b1 b2 b3
      intro i hi
      interval_cases i
      · rw [l0]; exact h0
      · rw [l1]; exact h1
      · rw [l2]; exact h2
      · rw [l3]; exact h3
    · cases h
  · intro h
    have h0 : byteAt s o = some (lane v 0) := h 0 (by decide)
    simp [wordAtOffset, h0, h 1, h 2, h 3, busWordOf_lanes]

/-- A read that answers data, and no draws, answers the word at its offset. -/
theorem wordAtOffset_of_hostAccess_read {s t : State} {o : Nat} {v : BusWord} (h4 : o % 4 = 0) (h : o < 512)
    (hd : s.status.busy = false ∨ drawnWhileBusy (regionOf o) = false) (hread : hostAccess (readAt o) s = .next t)
    (hv : t.response = .data v) : wordAtOffset s o = some v := by
  rw [hostAccess_readAt h4 h, hostRead, if_neg (by rcases hd with h | h <;> simp [h])] at hread
  split at hread
  · next w hw =>
    obtain rfl := Host.Outcome.next.inj hread
    obtain rfl : w = v := by simpa using hv
    exact hw
  · obtain rfl := Host.Outcome.next.inj hread
    simp [busError_eq] at hv

/-- After a write to KEY or DIN while BUSY = 0, the word at its offset is the one written. -/
theorem wordAtOffset_of_hostAccess_write {s t : State} {o : Nat} {v : BusWord} (hb : s.status.busy = false)
    (h4 : o % 4 = 0) (h : o < 0x030) (hwrite : hostAccess (writeAt o v) s = .next t) : wordAtOffset t o = some v := by
  refine wordAtOffset_eq_some_iff.mpr fun i hi => ?_
  by_cases hkey : o < 0x020
  · rw [hostAccess_write_key h4 hkey hb] at hwrite
    obtain rfl := Host.Outcome.next.inj hwrite
    rw [byteAt_key (by omega), invalidateSchedule_key, putWord_getElem_lane s.key o v i hi (by omega)]
  · obtain ⟨k, rfl⟩ : ∃ k, o = 0x020 + k := ⟨o - 0x020, by omega⟩
    rw [hostAccess_write_din (by omega) (by omega) hb] at hwrite
    obtain rfl := Host.Outcome.next.inj hwrite
    rw [Nat.add_assoc, byteAt_din (by omega), putWord_getElem_lane s.din k v i hi (by omega)]

/-- Settles O10: the lanes of any word of the window, that reads answer and writes leave such a word, and DIN's first byte. -/
theorem busWordIsLittleEndian : Obligations.BusWordIsLittleEndian := by
  refine ⟨fun s o v hword => ?lanes, fun s t o v hb h4 h => wordAtOffset_of_hostAccess_read h4 h (.inl hb),
    fun s t o v => wordAtOffset_of_hostAccess_write, fun s t v hread hv => ?firstByte⟩
  case lanes =>
    have hbyte := wordAtOffset_eq_some_iff.mp hword
    exact ⟨hbyte 0 (by decide), hbyte 1 (by decide), hbyte 2 (by decide), hbyte 3 (by decide)⟩
  case firstByte =>
    have hword := wordAtOffset_of_hostAccess_read (by decide) (by decide)
      (.inr (drawnWhileBusy_din (by decide) (by decide))) hread hv
    have hbyte : byteAt s (0x020 + 0) = some (lane v 0) := wordAtOffset_eq_some_iff.mp hword 0 (by decide)
    rw [byteAt_din (by decide)] at hbyte
    exact Option.some.inj hbyte

end Sys2Proof.Machine
end

section
/-!
PROOFS. The decoder word by word, as the table of R75 (O1).
-/

namespace Sys2Proof

/-! ## The four command words of R73 -/

@[simp] theorem decode_keyexpE : decode 0x00000001#32 = some .keyexpE := rfl

@[simp] theorem decode_keyexpD : decode 0x00000005#32 = some .keyexpD := rfl

@[simp] theorem decode_enc : decode 0x00000002#32 = some .enc := rfl

@[simp] theorem decode_dec : decode 0x00000003#32 = some .dec := rfl

/-- ILLEGAL is the words off the table, and no others (R75). -/
theorem decode_eq_none_iff {w : BusWord} : decode w = none ↔
    w ≠ 0x00000001#32 ∧ w ≠ 0x00000005#32 ∧ w ≠ 0x00000002#32 ∧ w ≠ 0x00000003#32 := by
  constructor
  · intro h
    refine ⟨?_, ?_, ?_, ?_⟩ <;> rintro rfl <;> simp at h
  · rintro ⟨hkeyexpE, hkeyexpD, henc, hdec⟩
    rw [decode, if_neg hkeyexpE, if_neg hkeyexpD, if_neg henc, if_neg hdec]

/-- Settles O1: the four rows of the table, and `none` for every word off it. -/
theorem decodeIsTheFourWordTable : Obligations.DecodeIsTheFourWordTable :=
  ⟨decode_keyexpE, decode_keyexpD, decode_enc, decode_dec,
    fun _ hkeyexpE hkeyexpD henc hdec => decode_eq_none_iff.mpr ⟨hkeyexpE, hkeyexpD, henc, hdec⟩⟩

end Sys2Proof
end

section
/-!
PROOFS. The field multiplier (R100 to R105): `xtime` bit by bit (O41), `gmul` as the sum of R102 (O42), the field laws of
R105 (O43) and the constant multipliers of R103 (O44).

The sum of R102 is kept by every map that is additive and commutes with `xtime` (`map_gmul`). `xtime` is such a map, and so
is multiplication by a byte; associativity and commutativity follow. Inverses come from the eighth iterate of squaring,
which is the identity.
-/

namespace Sys2Proof.Machine

open Sys2Proof

/-! ## xtime -/

/-- The carry out of bit 7 selects the reduction, whose low byte is 0x1B. -/
theorem xtime_eq (a : Byte) : xtime a = if a.getLsbD 7 = true then (a <<< 1) ^^^ 0x1B#8 else a <<< 1 := by
  have hshift : (a.setWidth 9 <<< 1).setWidth 8 = a <<< 1 := by ext; simp
  have hcarry : (a.setWidth 9 <<< 1).getLsbD 8 = a.getLsbD 7 := by simp
  simp only [xtime, hcarry]
  split
  · rw [BitVec.setWidth_xor, hshift]
    rfl
  · exact hshift

/-- A byte that a bit selects is additive in the bit. -/
theorem ite_xor_zero (p q : Bool) (v : Byte) : (if (p ^^ q) = true then v else 0) =
    (if p = true then v else 0) ^^^ (if q = true then v else 0) := by
  cases p <;> cases q <;> simp

theorem xtime_eq_xor (a : Byte) : xtime a = (a <<< 1) ^^^ (if a.getLsbD 7 = true then 0x1B#8 else 0) := by
  rw [xtime_eq]
  split <;> simp

theorem xtime_xor : Function.Semiconj₂ xtime (· ^^^ ·) (· ^^^ ·) := by
  intro a b
  simp only [xtime_eq_xor, BitVec.shiftLeft_xor_distrib, BitVec.getLsbD_xor, ite_xor_zero]
  ac_rfl

/-- Settles O41: the two cases of the carry, and the rule's values. -/
theorem xtimeIsMultiplicationByX : Obligations.XtimeIsMultiplicationByX := by
  refine ⟨xtime_eq, ?_, ?_, ?_, ?_, ?_⟩ <;> decide

/-! ## gmul as a sum over bits -/

/-- The term of R102's sum for bit `i` of `b`. -/
def gmulTerm (a b : Byte) (i : Nat) : Byte := if b.getLsbD i then xtime^[i] a else 0

/-- R102's sum over the bits of `b` below `n`. -/
def gmulSum (a b : Byte) (n : Nat) : Byte := ((List.range n).map (gmulTerm a b)).foldl (· ^^^ ·) 0

theorem gmulSum_zero (a b : Byte) : gmulSum a b 0 = 0 := rfl

theorem gmulSum_succ (a b : Byte) (n : Nat) : gmulSum a b (n + 1) = gmulSum a b n ^^^ gmulTerm a b n := by
  simp [gmulSum, List.range_succ]

theorem foldl_gmulStep (a b : Byte) (n : Nat) :
    (List.range n).foldl (gmulStep b) (0, a) = (gmulSum a b n, xtime^[n] a) := by
  induction n with
  | zero => rfl
  | succ n ih =>
    rw [List.range_succ, List.foldl_append, ih, gmulSum_succ, Function.iterate_succ_apply']
    cases h : b.getLsbD n <;> simp [gmulStep, gmulTerm, h]

theorem gmul_eq_gmulSum (a b : Byte) : gmul a b = gmulSum a b 8 := congrArg Prod.fst (foldl_gmulStep a b 8)

theorem gmulTerm_xor_right (a b c : Byte) (i : Nat) : gmulTerm a (b ^^^ c) i = gmulTerm a b i ^^^ gmulTerm a c i := by
  simp only [gmulTerm, BitVec.getLsbD_xor, ite_xor_zero]

theorem gmulSum_xor_right (a b c : Byte) (n : Nat) : gmulSum a (b ^^^ c) n = gmulSum a b n ^^^ gmulSum a c n := by
  induction n with
  | zero => simp [gmulSum_zero]
  | succ n ih =>
    simp only [gmulSum_succ, ih, gmulTerm_xor_right]
    ac_rfl

theorem gmul_xor_right (a b c : Byte) : gmul a (b ^^^ c) = gmul a b ^^^ gmul a c := by
  simp only [gmul_eq_gmulSum, gmulSum_xor_right]

theorem gmulTerm_xor_left (a b c : Byte) (i : Nat) : gmulTerm (a ^^^ b) c i = gmulTerm a c i ^^^ gmulTerm b c i := by
  cases h : c.getLsbD i <;> simp [gmulTerm, h, (xtime_xor.iterate i).eq]

theorem gmulSum_xor_left (a b c : Byte) (n : Nat) : gmulSum (a ^^^ b) c n = gmulSum a c n ^^^ gmulSum b c n := by
  induction n with
  | zero => simp [gmulSum_zero]
  | succ n ih =>
    simp only [gmulSum_succ, ih, gmulTerm_xor_left]
    ac_rfl

theorem gmul_xor_left (a b c : Byte) : gmul (a ^^^ b) c = gmul a c ^^^ gmul b c := by
  simp only [gmul_eq_gmulSum, gmulSum_xor_left]

/-- An additive map that commutes with `xtime` moves through the sum to its first factor. -/
theorem map_gmulSum {f : Byte → Byte} (hxor : Function.Semiconj₂ f (· ^^^ ·) (· ^^^ ·)) (hx : Function.Commute f xtime)
    (a b : Byte) (n : Nat) : f (gmulSum a b n) = gmulSum (f a) b n := by
  have hzero : f 0 = 0 := by simpa using hxor 0 0
  induction n with
  | zero => exact hzero
  | succ n ih =>
    have hterm : f (gmulTerm a b n) = gmulTerm (f a) b n := by
      rw [gmulTerm, gmulTerm, apply_ite f, hzero, (hx.iterate_right n).eq]
    rw [gmulSum_succ, gmulSum_succ, hxor.eq, ih, hterm]

theorem map_gmul {f : Byte → Byte} (hxor : Function.Semiconj₂ f (· ^^^ ·) (· ^^^ ·)) (hx : Function.Commute f xtime)
    (a b : Byte) : f (gmul a b) = gmul (f a) b := by
  simp only [gmul_eq_gmulSum, map_gmulSum hxor hx]

theorem gmul_xtime_left (a b : Byte) : gmul (xtime a) b = xtime (gmul a b) := (map_gmul xtime_xor (.refl _) a b).symm

/-! ## Commutativity and associativity -/

theorem xtime_iterate_one : ∀ n < 8, xtime^[n] 1 = BitVec.twoPow 8 n := by decide

theorem getLsbD_gmulTerm_one (b : Byte) {n : Nat} (hn : n < 8) (j : Nat) :
    (gmulTerm 1 b n).getLsbD j = (decide (n = j) && b.getLsbD j) := by
  rw [gmulTerm, xtime_iterate_one n hn]
  split <;> grind

theorem getLsbD_gmulSum_one (b : Byte) {n : Nat} (hn : n ≤ 8) (j : Nat) :
    (gmulSum 1 b n).getLsbD j = (decide (j < n) && b.getLsbD j) := by
  induction n with
  | zero => simp [gmulSum_zero]
  | succ n ih =>
    rw [gmulSum_succ, BitVec.getLsbD_xor, ih (by omega), getLsbD_gmulTerm_one b hn]
    rcases Nat.lt_trichotomy j n with h | h | h
    · simp [h, h.ne', Nat.lt_succ_of_lt h]
    · simp [h]
    · simp [h.ne, h.not_gt, Nat.not_lt_of_ge h]

/-- The powers of x below x^8 are the single bits, so the sum over them gives `b` back. -/
theorem one_gmul (b : Byte) : gmul 1 b = b := by
  refine BitVec.eq_of_getLsbD_eq fun j hj => ?_
  rw [gmul_eq_gmulSum, getLsbD_gmulSum_one b le_rfl, decide_eq_true hj, Bool.true_and]

/-- Multiplication by `c` is one of the maps of `map_gmul`. -/
theorem gmul_right_comm (a b c : Byte) : gmul (gmul a b) c = gmul (gmul a c) b :=
  map_gmul (f := (gmul · c)) (gmul_xor_left · · c) (gmul_xtime_left · c) a b

theorem gmul_comm (a b : Byte) : gmul a b = gmul b a := by
  have h := gmul_right_comm 1 a b
  rwa [one_gmul, one_gmul] at h

theorem gmul_assoc (a b c : Byte) : gmul (gmul a b) c = gmul a (gmul b c) := by
  rw [gmul_comm a b, gmul_right_comm, gmul_comm]

theorem gmul_one (a : Byte) : gmul a 1 = a := by rw [gmul_comm, one_gmul]

theorem gmul_zero (a : Byte) : gmul a 0 = 0 := by simpa using gmul_xor_right a 0 0

theorem zero_gmul (a : Byte) : gmul 0 a = 0 := by rw [gmul_comm, gmul_zero]

theorem gmul_xtime_right (a b : Byte) : gmul a (xtime b) = xtime (gmul a b) := by
  rw [gmul_comm, gmul_xtime_left, gmul_comm]

/-- Settles O42: the loop of R102 is its sum over the bits of `b`. -/
theorem multiplierIsShiftAndReduce : Obligations.MultiplierIsShiftAndReduce :=
  ⟨gmul_eq_gmulSum, fun a => ⟨gmul_zero a, zero_gmul a, gmul_one a⟩, gmul_comm, by decide, by decide, by decide⟩

/-! ## Inverses

The argument is Fermat's: a^255 is its own square, and the only bytes that are their own square are 0 and 1. -/

/-- The square of a byte in the field. -/
def gfSquare (a : Byte) : Byte := gmul a a

theorem gfSquare_xor : Function.Semiconj₂ gfSquare (· ^^^ ·) (· ^^^ ·) := by
  intro a b
  have hcross : gmul a a ^^^ gmul b a ^^^ (gmul b a ^^^ gmul b b) = gmul a a ^^^ gmul b b := by
    rw [BitVec.xor_assoc, ← BitVec.xor_assoc (gmul b a), BitVec.xor_self, BitVec.zero_xor]
  rw [gfSquare, gmul_xor_right, gmul_xor_left, gmul_xor_left, gmul_comm a b, hcross]
  rfl

theorem gfSquare_gmul : Function.Semiconj₂ gfSquare gmul gmul := by
  intro a b
  rw [gfSquare, gmul_assoc, ← gmul_assoc b, gmul_right_comm b, gmul_comm (gmul b b), ← gmul_assoc]
  rfl

/-- The eighth iterate of squaring fixes 1 and x, so it is the identity: a^256 = a. -/
theorem gfSquare_iterate_eight (a : Byte) : gfSquare^[8] a = a := by
  have hone : gfSquare^[8] 1 = 1 := by decide
  have hx : gfSquare^[8] (xtime 1) = xtime 1 := by decide
  have hxtime : Function.Commute gfSquare^[8] xtime := fun y => by
    have hy := (gfSquare_gmul.iterate 8).eq (xtime 1) y
    rwa [hx, gmul_xtime_left, gmul_xtime_left, one_gmul, one_gmul] at hy
  have ha := map_gmul (gfSquare_xor.iterate 8) hxtime 1 a
  rwa [hone, one_gmul] at ha

/-- a^(2^k - 1). -/
def gfPowTwoPowPred (a : Byte) : Nat → Byte
  | 0 => 1
  | k + 1 => gmul a (gfSquare (gfPowTwoPowPred a k))

theorem gfSquare_iterate_eq (a : Byte) (k : Nat) : gfSquare^[k] a = gmul a (gfPowTwoPowPred a k) := by
  induction k with
  | zero => exact (gmul_one a).symm
  | succ k ih =>
    rw [Function.iterate_succ_apply', ih, gfSquare_gmul]
    exact gmul_assoc a a _

theorem eq_zero_or_one_of_gfSquare_eq_self : ∀ e : Byte, gfSquare e = e → e = 0 ∨ e = 1 := by decide +kernel

theorem gfSquare_gfPowTwoPowPred_eight (a : Byte) : gfSquare (gfPowTwoPowPred a 8) = gfPowTwoPowPred a 8 := by
  have hsplit : gfPowTwoPowPred a 8 = gmul (gfSquare^[7] a) (gfPowTwoPowPred a 7) := by
    rw [gfSquare_iterate_eq, gmul_assoc]
    rfl
  calc gfSquare (gfPowTwoPowPred a 8)
      = gmul (gfSquare^[8] a) (gfSquare (gfPowTwoPowPred a 7)) := by
        rw [hsplit, gfSquare_gmul, Function.iterate_succ_apply' gfSquare 7]
    _ = gfPowTwoPowPred a 8 := by rw [gfSquare_iterate_eight]; rfl

/-- a^255 = 1. -/
theorem gfPowTwoPowPred_eight {a : Byte} (ha : a ≠ 0) : gfPowTwoPowPred a 8 = 1 := by
  refine (eq_zero_or_one_of_gfSquare_eq_self _ (gfSquare_gfPowTwoPowPred_eight a)).resolve_left fun hzero => ha ?_
  rw [← gfSquare_iterate_eight a, gfSquare_iterate_eq, hzero, gmul_zero]

theorem exists_gmul_eq_one {a : Byte} (ha : a ≠ 0) : ∃ b, gmul a b = 1 :=
  ⟨gfSquare (gfPowTwoPowPred a 7), gfPowTwoPowPred_eight ha⟩

theorem eq_of_gmul_eq_one {a b c : Byte} (hb : gmul a b = 1) (hc : gmul a c = 1) : b = c :=
  calc b = gmul (gmul a c) b := by rw [hc, one_gmul]
    _ = gmul (gmul a b) c := gmul_right_comm a c b
    _ = c := by rw [hb, one_gmul]

theorem existsUnique_gmul_eq_one {a : Byte} (ha : a ≠ 0) : ∃! b, gmul a b = 1 :=
  let ⟨b, hb⟩ := exists_gmul_eq_one ha
  ⟨b, hb, fun _ hc => eq_of_gmul_eq_one hc hb⟩

/-- Settles O43: the ring laws from the sum of R102, the inverses from a^255 = 1. -/
theorem multiplierFieldLaws : Obligations.MultiplierFieldLaws :=
  ⟨gmul_assoc, gmul_comm, gmul_xor_right, gmul_xor_left, gmul_one, fun _ => existsUnique_gmul_eq_one⟩

/-! ## The constant multipliers: each constant is a sum of powers of x -/

theorem gmul_two (a : Byte) : gmul a 2 = xtime a := by
  rw [show (2 : Byte) = xtime 1 by decide, gmul_xtime_right, gmul_one]

theorem gmul_four (a : Byte) : gmul a 4 = xtime (xtime a) := by
  rw [show (4 : Byte) = xtime 2 by decide, gmul_xtime_right, gmul_two]

theorem gmul_eight (a : Byte) : gmul a 8 = xtime (xtime (xtime a)) := by
  rw [show (8 : Byte) = xtime 4 by decide, gmul_xtime_right, gmul_four]

theorem gmul_three (a : Byte) : gmul a 3 = xtime a ^^^ a := by
  rw [show (3 : Byte) = 2 ^^^ 1 by decide, gmul_xor_right, gmul_two, gmul_one]

theorem gmul_nine (a : Byte) : gmul a 9 = xtime (xtime (xtime a)) ^^^ a := by
  rw [show (9 : Byte) = 8 ^^^ 1 by decide, gmul_xor_right, gmul_eight, gmul_one]

theorem gmul_eleven (a : Byte) : gmul a 11 = xtime (xtime (xtime a)) ^^^ xtime a ^^^ a := by
  rw [show (11 : Byte) = 8 ^^^ 2 ^^^ 1 by decide, gmul_xor_right, gmul_xor_right, gmul_eight, gmul_two, gmul_one]

theorem gmul_thirteen (a : Byte) : gmul a 13 = xtime (xtime (xtime a)) ^^^ xtime (xtime a) ^^^ a := by
  rw [show (13 : Byte) = 8 ^^^ 4 ^^^ 1 by decide, gmul_xor_right, gmul_xor_right, gmul_eight, gmul_four, gmul_one]

theorem gmul_fourteen (a : Byte) : gmul a 14 = xtime (xtime (xtime a)) ^^^ xtime (xtime a) ^^^ xtime a := by
  rw [show (14 : Byte) = 8 ^^^ 4 ^^^ 2 by decide, gmul_xor_right, gmul_xor_right, gmul_eight, gmul_four, gmul_two]

/-- Settles O44: the table of R103, constant by constant, and the rule's values. -/
theorem constantMultipliers : Obligations.ConstantMultipliers := by
  refine ⟨fun a => ⟨gmul_one a, gmul_two a, gmul_three a, gmul_nine a, gmul_eleven a, gmul_thirteen a, gmul_fourteen a⟩,
    ?_, ?_, ?_, ?_, ?_⟩ <;> decide

end Sys2Proof.Machine
end

section
/-!
PROOFS. The substitutions (R110 to R116): the search of `gfInverse` answers the field inverse, SBOX is its affine image (O45),
and the two substitutions act byte by byte and undo each other (O46).

The table is not compared with the search: undoing the affine map on an entry gives a candidate, one product per byte shows
that it is an inverse, and a byte has one inverse only.
-/

namespace Sys2Proof.Machine

open Sys2Proof

/-! ## The field inverse -/

theorem mem_allBytes (y : Byte) : y ∈ allBytes :=
  List.mem_map.mpr ⟨y.toNat, List.mem_range.mpr y.isLt, by rw [BitVec.ofNat_toNat, BitVec.setWidth_eq]⟩

/-- The search for a y with gmul(0, y) = 0x01 finds none. -/
theorem gfInverse_zero : gfInverse 0 = 0 := by
  have hnone : (allBytes.find? fun y => gmul 0 y == 0x01#8) = none :=
    List.find?_eq_none.mpr fun y _ => by rw [zero_gmul]; decide
  rw [gfInverse, hnone]
  rfl

/-- The search succeeds, because every byte but 0 has an inverse. -/
theorem gmul_gfInverse {x : Byte} (hx : x ≠ 0) : gmul x (gfInverse x) = 1 := by
  obtain ⟨b, hb⟩ := exists_gmul_eq_one hx
  have hsome : (allBytes.find? fun y => gmul x y == 0x01#8).isSome :=
    List.find?_isSome.mpr ⟨b, mem_allBytes b, beq_iff_eq.mpr hb⟩
  obtain ⟨y, hy⟩ := Option.isSome_iff_exists.mp hsome
  rw [gfInverse, hy, Option.getD_some]
  exact beq_iff_eq.mp (List.find?_some hy :)

theorem gmul_eq_one_iff {x y : Byte} (hx : x ≠ 0) : gmul x y = 1 ↔ y = gfInverse x := by
  refine ⟨fun hy => eq_of_gmul_eq_one hy (gmul_gfInverse hx), ?_⟩
  rintro rfl
  exact gmul_gfInverse hx

/-! ## The tables -/

theorem getLsbD_affine (b : Byte) (i : Fin 8) : (affine b).getLsbD i.val = affineBit b i.val := by
  simp [affine]

/-- The map that undoes `affine`, in the usual form: three rotations and 0x05. -/
def affineInverse (y : Byte) : Byte := y.rotateLeft 1 ^^^ y.rotateLeft 3 ^^^ y.rotateLeft 6 ^^^ 0x05

theorem affine_affineInverse : ∀ y : Byte, affine (affineInverse y) = y := by decide +kernel

/-- The table of R110, entry by entry, with the affine map undone. -/
theorem gmul_affineInverse_sbox : ∀ x : Byte, x ≠ 0 → gmul x (affineInverse (sbox x)) = 1 := by decide +kernel

theorem affineInverse_sbox_zero : affineInverse (sbox 0) = 0 := by decide

theorem affineInverse_sbox (x : Byte) : affineInverse (sbox x) = gfInverse x := by
  by_cases hx : x = 0
  · rw [hx, affineInverse_sbox_zero, gfInverse_zero]
  · exact (gmul_eq_one_iff hx).mp (gmul_affineInverse_sbox x hx)

theorem sbox_eq_affine_gfInverse (x : Byte) : sbox x = affine (gfInverse x) := by
  rw [← affineInverse_sbox, affine_affineInverse]

/-- Settles O45: undoing the affine map on the entry of x gives the inverse of x. -/
theorem sboxIsAffineOfInverse : Obligations.SboxIsAffineOfInverse :=
  ⟨sbox_eq_affine_gfInverse, gfInverse_zero, fun _ _ => gmul_eq_one_iff, getLsbD_affine⟩

theorem sbox_ne_self : ∀ x : Byte, sbox x ≠ x := by decide +kernel

theorem invSbox_sbox : Function.LeftInverse invSbox sbox := by
  unfold Function.LeftInverse
  decide +kernel

/-- A left inverse on the finite set of bytes is a right inverse. -/
theorem sbox_invSbox : Function.LeftInverse sbox invSbox :=
  invSbox_sbox.rightInverse_of_surjective (Finite.surjective_of_injective invSbox_sbox.injective)

/-! ## The substitutions on a matrix -/

theorem cell_mapBytes (f : Byte → Byte) (m : Matrix4) (c r : Fin 4) : cell (mapBytes f m) c r = f (cell m c r) :=
  cell_matrixFrom _ c r

theorem mapBytes_leftInverse {f g : Byte → Byte} (h : Function.LeftInverse g f) :
    Function.LeftInverse (mapBytes g) (mapBytes f) := fun m =>
  matrix_ext fun c r => by rw [cell_mapBytes, cell_mapBytes, h]

/-- Settles O46: each matrix law follows cell by cell from the law of its table; the corner cases and examples are evaluated. -/
theorem substitutionsAreInverse : Obligations.SubstitutionsAreInverse := by
  refine ⟨cell_mapBytes sbox, cell_mapBytes invSbox, sbox_ne_self, fun m c r => ?_, by decide, by decide,
    by decide +kernel, by decide +kernel, invSbox_sbox, mapBytes_leftInverse invSbox_sbox, mapBytes_leftInverse sbox_invSbox⟩
  rw [subBytes, cell_mapBytes]
  exact sbox_ne_self (cell m c r)

end Sys2Proof.Machine
end

section
/-!
PROOFS. The row permutations (R120 to R122): their inverses and the fourth power of ShiftRows (O47).
-/

namespace Sys2Proof.Machine

open Sys2Proof

@[simp] theorem cell_shiftRows (m : Matrix4) (c r : Fin 4) : cell (shiftRows m) c r = cell m (c + r) r :=
  cell_matrixFrom _ c r

@[simp] theorem cell_invShiftRows (m : Matrix4) (c r : Fin 4) : cell (invShiftRows m) c r = cell m (c - r) r :=
  cell_matrixFrom _ c r

theorem invShiftRows_shiftRows (m : Matrix4) : invShiftRows (shiftRows m) = m :=
  matrix_ext fun c r => by rw [cell_invShiftRows, cell_shiftRows, sub_add_cancel]

theorem shiftRows_invShiftRows (m : Matrix4) : shiftRows (invShiftRows m) = m :=
  matrix_ext fun c r => by rw [cell_shiftRows, cell_invShiftRows, add_sub_cancel_right]

/-- Row `r` turns by `4 * r` columns in all, a whole number of turns. -/
theorem shiftRows_four_times (m : Matrix4) : shiftRows (shiftRows (shiftRows (shiftRows m))) = m := by
  have hturn : ∀ c r : Fin 4, c + r + r + r + r = c := by decide
  exact matrix_ext fun c r => by simp only [cell_shiftRows, hturn]

/-- Settles O47: cell by cell, each law is one of the column number mod 4. -/
theorem rowShiftsAreInverse : Obligations.RowShiftsAreInverse :=
  ⟨cell_shiftRows, cell_invShiftRows, invShiftRows_shiftRows, shiftRows_invShiftRows, shiftRows_four_times⟩

end Sys2Proof.Machine
end

section
/-!
PROOFS. The column mixings (R123 to R125): the rows of each (O48), their inverses and their linearity (O49).

Each mixing multiplies a column by a matrix of constants over GF(2^8) (`MultipliesBy`), and each law is proved once for all
such maps: the inverses from the product of the two matrices, the equal columns from the sum of each row.
-/

namespace Sys2Proof.Machine

open Sys2Proof

/-! ## Products of a row of constants and a column -/

/-- `gmul_zero`, at the literal as `simp` writes it. -/
@[simp] theorem gmul_zero_ofNat (a : Byte) : gmul a 0#8 = 0#8 := gmul_zero a

/-- `gmul_one`, at the literal as `simp` writes it. -/
@[simp] theorem gmul_one_ofNat (a : Byte) : gmul a 1#8 = a := gmul_one a

/-- The sum of products of the coefficients `k` and the bytes `a`, over GF(2^8). -/
def gfDot (k a : Fin 4 → Byte) : Byte := gmul (a 0) (k 0) ^^^ gmul (a 1) (k 1) ^^^ gmul (a 2) (k 2) ^^^ gmul (a 3) (k 3)

theorem gfDot_xor (k a b : Fin 4 → Byte) : gfDot k (fun i => a i ^^^ b i) = gfDot k a ^^^ gfDot k b := by
  simp only [gfDot, gmul_xor_left]
  ac_rfl

/-- A product with products is a product with the row of the product matrix. -/
theorem gfDot_gfDot (k : Fin 4 → Byte) (l : Matrix (Fin 4) (Fin 4) Byte) (a : Fin 4 → Byte) :
    gfDot k (fun i => gfDot (l i) a) = gfDot (fun j => gfDot k fun i => l i j) a := by
  simp only [gfDot, gmul_xor_left, gmul_xor_right, gmul_assoc]
  ac_rfl

/-- A row of the identity matrix picks one byte. -/
theorem gfDot_single (r : Fin 4) (a : Fin 4 → Byte) : gfDot (Pi.single r 1) a = a r := by
  fin_cases r <;> simp [gfDot]

theorem gfDot_const (k : Fin 4 → Byte) (b : Byte) : gfDot k (fun _ => b) = gmul b (k 0 ^^^ k 1 ^^^ k 2 ^^^ k 3) := by
  simp only [gfDot, gmul_xor_right]

/-! ## Maps of a column that multiply it by a matrix -/

/-- `f` replaces a column with the product of the matrix `k` and that column (R123, R124). -/
def MultipliesBy (k : Matrix (Fin 4) (Fin 4) Byte) (f : Column → Column) : Prop :=
  ∀ a r, byteOf (f a) r = gfDot (k r) (byteOf a)

theorem byteOf_xorWord (a b : Column) (r : Fin 4) : byteOf (xorWord a b) r = byteOf a r ^^^ byteOf b r := by
  fin_cases r <;> rfl

theorem byteOf_equal (b : Byte) : byteOf ⟨b, b, b, b⟩ = fun _ => b := by
  funext r
  fin_cases r <;> rfl

section
variable {k l : Matrix (Fin 4) (Fin 4) Byte} {f g : Column → Column}

theorem MultipliesBy.map_xorWord (hf : MultipliesBy k f) (a b : Column) : f (xorWord a b) = xorWord (f a) (f b) :=
  column_ext fun r => by rw [byteOf_xorWord, hf, hf, hf, ← gfDot_xor, funext (byteOf_xorWord a b)]

theorem MultipliesBy.leftInverse (hf : MultipliesBy k f) (hg : MultipliesBy l g)
    (hmul : ∀ r, (fun j => gfDot (l r) fun i => k i j) = Pi.single r 1) : Function.LeftInverse g f := fun a =>
  column_ext fun r =>
    calc byteOf (g (f a)) r = gfDot (l r) (fun i => gfDot (k i) (byteOf a)) := by rw [hg, funext (hf a)]
      _ = byteOf a r := by rw [gfDot_gfDot, hmul, gfDot_single]

theorem MultipliesBy.map_equal (hf : MultipliesBy k f) (hsum : ∀ r, k r 0 ^^^ k r 1 ^^^ k r 2 ^^^ k r 3 = 1) (b : Byte) :
    f ⟨b, b, b, b⟩ = ⟨b, b, b, b⟩ :=
  column_ext fun r => by rw [hf, byteOf_equal, gfDot_const, hsum, gmul_one]

end

/-! ## The two mixings of a column -/

/-- The matrix of R123. -/
def mixMatrix : Matrix (Fin 4) (Fin 4) Byte :=
  !![2, 3, 1, 1;
     1, 2, 3, 1;
     1, 1, 2, 3;
     3, 1, 1, 2]

/-- The matrix of R124. -/
def invMixMatrix : Matrix (Fin 4) (Fin 4) Byte :=
  !![14, 11, 13, 9;
     9, 14, 11, 13;
     13, 9, 14, 11;
     11, 13, 9, 14]

theorem mixColumn_multipliesBy : MultipliesBy mixMatrix mixColumn := by
  intro a r
  fin_cases r <;> simp [mixColumn, mixMatrix, gfDot, byteOf]

theorem invMixColumn_multipliesBy : MultipliesBy invMixMatrix invMixColumn := by
  intro a r
  fin_cases r <;> rfl

theorem invMixColumn_mixColumn : Function.LeftInverse invMixColumn mixColumn :=
  mixColumn_multipliesBy.leftInverse invMixColumn_multipliesBy (by decide)

theorem mixColumn_invMixColumn : Function.LeftInverse mixColumn invMixColumn :=
  invMixColumn_multipliesBy.leftInverse mixColumn_multipliesBy (by decide)

theorem mixColumn_equal (b : Byte) : mixColumn ⟨b, b, b, b⟩ = ⟨b, b, b, b⟩ :=
  mixColumn_multipliesBy.map_equal (by decide) b

theorem invMixColumn_equal (b : Byte) : invMixColumn ⟨b, b, b, b⟩ = ⟨b, b, b, b⟩ :=
  invMixColumn_multipliesBy.map_equal (by decide) b

/-! ## Column by column -/

theorem columnOf_mapColumns (f : Column → Column) (m : Matrix4) (c : Fin 4) :
    columnOf (mapColumns f m) c = f (columnOf m c) := by
  fin_cases c <;> rfl

@[simp] theorem columnOf_mixColumns (m : Matrix4) (c : Fin 4) : columnOf (mixColumns m) c = mixColumn (columnOf m c) :=
  columnOf_mapColumns mixColumn m c

@[simp] theorem columnOf_invMixColumns (m : Matrix4) (c : Fin 4) :
    columnOf (invMixColumns m) c = invMixColumn (columnOf m c) :=
  columnOf_mapColumns invMixColumn m c

theorem columnOf_addRoundKey (m k : Matrix4) (c : Fin 4) :
    columnOf (addRoundKey m k) c = xorWord (columnOf m c) (columnOf k c) :=
  columnOf_matrixFrom _ c

/-- Two matrices with the same columns are one matrix. -/
theorem matrix_ext_columns {m n : Matrix4} (h : ∀ c, columnOf m c = columnOf n c) : m = n :=
  matrix_ext fun c r => congrArg (byteOf · r) (h c)

theorem mapColumns_leftInverse {f g : Column → Column} (h : Function.LeftInverse g f) :
    Function.LeftInverse (mapColumns g) (mapColumns f) := fun m =>
  matrix_ext_columns fun c => by rw [columnOf_mapColumns, columnOf_mapColumns, h]

theorem mapColumns_addRoundKey {f : Column → Column} (h : ∀ a b, f (xorWord a b) = xorWord (f a) (f b)) (m n : Matrix4) :
    mapColumns f (addRoundKey m n) = addRoundKey (mapColumns f m) (mapColumns f n) :=
  matrix_ext_columns fun c => by simp only [columnOf_mapColumns, columnOf_addRoundKey, h]

/-- Settles O49: each law holds of a matrix because it holds of every column. -/
theorem columnMixingsAreInverseAndLinear : Obligations.ColumnMixingsAreInverseAndLinear :=
  ⟨mapColumns_leftInverse invMixColumn_mixColumn, mapColumns_leftInverse mixColumn_invMixColumn,
    mapColumns_addRoundKey mixColumn_multipliesBy.map_xorWord, mapColumns_addRoundKey invMixColumn_multipliesBy.map_xorWord⟩

/-- Settles O48: the rows are those of the column's mixing, each row of either matrix sums to 1, and the examples are evaluated. -/
theorem columnMixingsMultiplyByTheMatrices : Obligations.ColumnMixingsMultiplyByTheMatrices := by
  refine ⟨fun m c => ?rows, fun m c => ?invRows, fun m c b h => ?equal, by decide, by decide, by decide, by decide,
    by decide, by decide, by decide⟩
  case rows =>
    simp only [cell, columnOf_mixColumns]
    exact ⟨rfl, rfl, rfl, rfl⟩
  case invRows =>
    simp only [cell, columnOf_invMixColumns]
    exact ⟨rfl, rfl, rfl, rfl⟩
  case equal =>
    rw [columnOf_mixColumns, columnOf_invMixColumns, h]
    exact ⟨mixColumn_equal b, invMixColumn_equal b⟩

end Sys2Proof.Machine
end

section
/-!
PROOFS. The key schedule (R130 to R136): the round constants (O50), the word recurrence (O51) and the round keys of both
modes (O52).

The recurrence of R132 is a property of a list of words (`Expands`) that every turn of the loop keeps, and that fixes the
list once its length is given.
-/

namespace Sys2Proof.Machine

open Sys2Proof

/-! ## The round constants -/

theorem rcon_succ {n : Nat} (h : n < 7) : rcon (n + 1) = doubling n := if_pos ⟨by omega, by omega⟩

theorem rcon_double {j : Nat} (h1 : 1 ≤ j) (h7 : j < 7) : rcon (j + 1) = xtime (rcon j) := by
  obtain ⟨n, rfl⟩ : ∃ n, j = n + 1 := ⟨j - 1, by omega⟩
  rw [rcon_succ h7, rcon_succ (by omega), doubling]

/-! ## The `tmp` of R132, branch by branch -/

theorem scheduleTemp_of_mod_eq_zero {i : Nat} (h : i % 8 = 0) (before : Column) :
    scheduleTemp i before = xorWord (subWord (rotWord before)) ⟨rcon (i / 8), 0, 0, 0⟩ := by
  simp [scheduleTemp, h, xorWord]

theorem scheduleTemp_of_mod_eq_four {i : Nat} (h : i % 8 = 4) (before : Column) : scheduleTemp i before = subWord before := by
  simp [scheduleTemp, h]

theorem scheduleTemp_of_other {i : Nat} (h0 : i % 8 ≠ 0) (h4 : i % 8 ≠ 4) (before : Column) :
    scheduleTemp i before = before := by
  rw [scheduleTemp, if_neg h0, if_neg h4]

/-- In the loop's range only the constants 1 to 7 are read (R131). -/
theorem scheduleTemp_eq_of_table {rc : Nat → Byte} (hrc : ∀ j, 1 ≤ j → j ≤ 7 → rc j = rcon j) {i : Nat} (h8 : 8 ≤ i)
    (h60 : i < 60) (before : Column) : scheduleTemp i before =
      if i % 8 = 0 then xorWord (subWord (rotWord before)) ⟨rc (i / 8), 0, 0, 0⟩
      else if i % 8 = 4 then subWord before else before := by
  split_ifs with h0 h4
  · rw [scheduleTemp_of_mod_eq_zero h0, hrc (i / 8) (by omega) (by omega)]
  · exact scheduleTemp_of_mod_eq_four h4 before
  · exact scheduleTemp_of_other h0 h4 before

/-! ## The words of a list -/

theorem wordAt_append_left {ws : List Column} {i : Nat} (h : i < ws.length) (vs : List Column) :
    wordAt (ws ++ vs) i = wordAt ws i :=
  List.getD_append ws vs default i h

theorem wordAt_append_length (ws : List Column) (v : Column) : wordAt (ws ++ [v]) ws.length = v := by simp [wordAt]

theorem words_ext {ws vs : List Column} (hlen : ws.length = vs.length)
    (h : ∀ i < ws.length, wordAt ws i = wordAt vs i) : ws = vs :=
  List.ext_getElem hlen fun i hi hi' => by simpa [wordAt, hi, hi'] using h i hi

theorem length_appendWord (ws : List Column) (i : Nat) : (appendWord ws i).length = ws.length + 1 := by simp [appendWord]

theorem wordAt_firstWords (key : Bytes 32) (j : Fin 8) : wordAt (firstWords key) j.val = keyWord key j := by
  rw [wordAt, firstWords, List.getD_eq_getElem _ _ (by simp), List.getElem_ofFn]

theorem byteOf_keyWord (key : Bytes 32) (j : Fin 8) (r : Fin 4) : byteOf (keyWord key j) r = key[4 * j.val + r.val] := by
  fin_cases r <;> rfl

/-! ## The recurrence -/

/-- The words begin with the key, and every later one is as R132 makes it from those before it. -/
structure Expands (key : Bytes 32) (ws : List Column) : Prop where
  /-- The key's words are all there. -/
  length_ge : 8 ≤ ws.length
  /-- They are the key's. -/
  first : ∀ j : Fin 8, wordAt ws j.val = keyWord key j
  /-- The recurrence. -/
  recurrence : ∀ i, 8 ≤ i → i < ws.length →
    wordAt ws i = xorWord (wordAt ws (i - 8)) (scheduleTemp i (wordAt ws (i - 1)))

theorem expands_firstWords (key : Bytes 32) : Expands key (firstWords key) where
  length_ge := by simp [firstWords]
  first := wordAt_firstWords key
  recurrence i h8 h := absurd h (by simp [firstWords, h8])

section
variable {key : Bytes 32} {ws vs : List Column}

/-- One turn of R132's loop. -/
theorem expands_appendWord (h : Expands key ws) : Expands key (appendWord ws ws.length) := by
  have hlen := h.length_ge
  refine ⟨by rw [length_appendWord]; omega, fun j => ?first, fun i h8 hi => ?recurrence⟩
  case first => exact (wordAt_append_left (by omega) _).trans (h.first j)
  case recurrence =>
    rw [length_appendWord] at hi
    rw [appendWord, wordAt_append_left (i := i - 8) (by omega), wordAt_append_left (i := i - 1) (by omega)]
    obtain hold | rfl : i < ws.length ∨ i = ws.length := by omega
    · rw [wordAt_append_left hold, h.recurrence i h8 hold]
    · exact wordAt_append_length ws _

/-- The loop, from any point on. -/
theorem expands_foldl_appendWord (h : Expands key ws) (n : Nat) :
    Expands key ((List.range' ws.length n).foldl appendWord ws) ∧
      ((List.range' ws.length n).foldl appendWord ws).length = ws.length + n := by
  induction n generalizing ws with
  | zero => exact ⟨h, rfl⟩
  | succ n ih =>
    obtain ⟨hexpands, hlen⟩ := ih (expands_appendWord h)
    rw [length_appendWord] at hexpands hlen
    rw [List.range'_succ, List.foldl_cons]
    exact ⟨hexpands, by omega⟩

/-- The recurrence leaves no choice: each word is fixed by the ones before it. -/
theorem Expands.eq (hw : Expands key ws) (hv : Expands key vs) (hlen : ws.length = vs.length) : ws = vs := by
  refine words_ext hlen fun i => ?_
  induction i using Nat.strong_induction_on with
  | _ i ih =>
    intro hi
    by_cases h8 : i < 8
    · exact (hw.first ⟨i, h8⟩).trans (hv.first ⟨i, h8⟩).symm
    · rw [hw.recurrence i (by omega) hi, hv.recurrence i (by omega) (by omega), ih (i - 8) (by omega) (by omega),
        ih (i - 1) (by omega) (by omega)]

end

theorem expands_expandWords (key : Bytes 32) : Expands key (expandWords key) :=
  (expands_foldl_appendWord (expands_firstWords key) 52).1

theorem length_expandWords (key : Bytes 32) : (expandWords key).length = 60 :=
  (expands_foldl_appendWord (expands_firstWords key) 52).2

theorem wordAt_expandWords_key (key : Bytes 32) (j : Fin 8) : wordAt (expandWords key) j.val = keyWord key j :=
  (expands_expandWords key).first j

/-- Settles O50: such words satisfy the recurrence with `rcon` too, and it leaves no choice. -/
theorem roundConstantsDouble : Obligations.RoundConstantsDouble := by
  refine ⟨rfl, fun j => rcon_double, by decide, fun rc key ws hrc hlen hfirst hrec => ?_⟩
  refine Expands.eq ⟨by omega, hfirst, fun i h8 hi => ?_⟩ (expands_expandWords key) (hlen.trans (length_expandWords key).symm)
  rw [scheduleTemp_eq_of_table hrc h8 (hlen ▸ hi)]
  exact hrec i (hlen ▸ hi) h8

/-- Settles O51: the expansion satisfies the recurrence, branch by branch of `tmp`. -/
theorem keyExpansionRecurrence : Obligations.KeyExpansionRecurrence := by
  intro key
  refine ⟨length_expandWords key, wordAt_expandWords_key key, fun i h8 h60 => ?_⟩
  have hword := (expands_expandWords key).recurrence i h8 (by rwa [length_expandWords])
  dsimp only
  refine ⟨fun h0 => ?_, fun h4 => ?_, fun h0 h4 => ?_⟩
  · rw [hword, scheduleTemp_of_mod_eq_zero h0]
  · rw [hword, scheduleTemp_of_mod_eq_four h4]
  · rw [hword, scheduleTemp_of_other h0 h4]

/-! ## The round keys -/

theorem columnOf_groupRoundKeys_get (ws : List Column) (i : Fin 15) (c : Fin 4) :
    columnOf ((groupRoundKeys ws).get i) c = wordAt ws (4 * i.val + c.val) := by
  rw [groupRoundKeys, ofFn_get]
  fin_cases c <;> rfl

theorem columnOf_expandKey_false_get (key : Bytes 32) (i : Fin 15) (c : Fin 4) :
    columnOf ((expandKey key false).get i) c = wordAt (expandWords key) (4 * i.val + c.val) :=
  columnOf_groupRoundKeys_get (expandWords key) i c

/-- Encryption round keys 0 and 1 are the key's bytes, laid out as in R24 (R134). -/
theorem cell_expandKey_false_get (key : Bytes 32) (i : Fin 15) (hi : i.val < 2) (c r : Fin 4) :
    cell ((expandKey key false).get i) c r = key[16 * i.val + 4 * c.val + r.val] := by
  rw [cell, columnOf_expandKey_false_get, wordAt_expandWords_key key ⟨4 * i.val + c.val, by omega⟩, byteOf_keyWord]
  exact getElem_congr_idx (by simp only; omega)

theorem expandKey_true_get (key : Bytes 32) (i : Fin 15) : (expandKey key true).get i =
    if 1 ≤ i.val ∧ i.val ≤ 13 then invMixColumns ((expandKey key false).get i) else (expandKey key false).get i :=
  prepareInverse_get _ i

/-- Settles O52: the words in fours, and the two modes round key by round key. -/
theorem scheduleModesDifferByInvMixColumns : Obligations.ScheduleModesDifferByInvMixColumns := by
  intro key
  refine ⟨columnOf_expandKey_false_get key, fun c r => ⟨?key0, ?key1⟩, ?mode0, ?mode14, fun i h1 h13 => ?mode⟩
  case key0 => simpa using cell_expandKey_false_get key 0 (by decide) c r
  case key1 => exact cell_expandKey_false_get key 1 (by decide) c r
  case mode0 => exact expandKey_true_get key 0
  case mode14 => exact expandKey_true_get key 14
  case mode => rw [expandKey_true_get, if_pos ⟨h1, h13⟩]

end Sys2Proof.Machine
end

section
/-!
PROOFS. The round pipelines (R140 to R144): AddRoundKey (O53), the key of each round (O54), and that each pipeline undoes the
other (O56).

PrepareInverse puts InvMixColumns on the keys of the full rounds, and InvMixColumns is linear, so a round of the inverse
pipeline is AddRoundKey and then InvMixColumns, which are the last two steps of the forward round undone. What is left of that
round, SubBytes and ShiftRows, the next inverse round undoes: `decryptRound_encryptRound` says so with the two still in place,
and `encryptRound_decryptRound` the other way round. A fold of such rounds is undone by the fold in reverse.
-/

namespace Sys2Proof.Machine

open Sys2Proof

/-! ## AddRoundKey -/

@[simp] theorem cell_addRoundKey (m k : Matrix4) (c r : Fin 4) : cell (addRoundKey m k) c r = cell m c r ^^^ cell k c r :=
  cell_matrixFrom _ c r

@[simp] theorem addRoundKey_addRoundKey (m k : Matrix4) : addRoundKey (addRoundKey m k) k = m :=
  matrix_ext fun c r => by rw [cell_addRoundKey, cell_addRoundKey, BitVec.xor_assoc, BitVec.xor_self, BitVec.xor_zero]

theorem addRoundKey_of_zero {k : Matrix4} (h : ∀ c r, cell k c r = 0) (m : Matrix4) : addRoundKey m k = m :=
  matrix_ext fun c r => by
    rw [cell_addRoundKey, h]
    exact BitVec.xor_zero

theorem cell_addRoundKey_self (m : Matrix4) (c r : Fin 4) : cell (addRoundKey m m) c r = 0 :=
  (cell_addRoundKey m m c r).trans BitVec.xor_self

/-- Settles O53: each law is XOR's, cell by cell, and the example is evaluated. -/
theorem addRoundKeyIsAnInvolution : Obligations.AddRoundKeyIsAnInvolution :=
  ⟨cell_addRoundKey, addRoundKey_addRoundKey, fun m _ h => addRoundKey_of_zero h m, cell_addRoundKey_self, by decide⟩

/-! ## The rounds in order -/

theorem getElem_fullRounds : ∀ n : Fin 13, fullRounds[n.val]'n.isLt = ⟨n.val + 1, by omega⟩ := by decide

theorem getElem_reverse_fullRounds :
    ∀ n : Fin 13, (fullRounds.reverse)[n.val]'n.isLt = ⟨13 - n.val, by omega⟩ := by decide

theorem fullRounds_bounds : ∀ i ∈ fullRounds, 1 ≤ i.val ∧ i.val ≤ 13 := by decide

/-- A fold is the last of its intermediate values. -/
theorem foldl_eq_of_steps {α ι : Type} {f : α → ι → α} {l : List ι} {x : Nat → α}
    (h : ∀ n (hn : n < l.length), x (n + 1) = f (x n) l[n]) : l.foldl f (x 0) = x l.length := by
  induction l generalizing x with
  | nil => rfl
  | cons i l ih =>
    have hfirst : x 1 = f (x 0) i := h 0 (Nat.zero_lt_succ _)
    rw [List.foldl_cons, ← hfirst]
    exact ih (x := fun n => x (n + 1)) fun n hn => h (n + 1) (Nat.succ_lt_succ hn)

theorem encryptBlock_eq_of_rounds {m : Matrix4} {rk : Schedule} {x : Nat → Matrix4}
    (h0 : x 0 = addRoundKey m (rk.get 0))
    (hround : ∀ i : Fin 15, 1 ≤ i.val → i.val ≤ 13 → x i.val = encryptRound rk (x (i.val - 1)) i) :
    encryptBlock m rk = addRoundKey (shiftRows (subBytes (x 13))) (rk.get 14) := by
  have hfull : fullRounds.foldl (encryptRound rk) (x 0) = x 13 := foldl_eq_of_steps fun n (hn : n < 13) => by
    rw [getElem_fullRounds ⟨n, hn⟩]
    exact hround ⟨n + 1, by omega⟩ (by simp) (by simp; omega)
  rw [encryptBlock, ← h0, hfull]

theorem decryptBlock_eq_of_rounds {m : Matrix4} {dk : Schedule} {x : Nat → Matrix4}
    (h0 : x 0 = addRoundKey m (dk.get 14))
    (hround : ∀ i : Fin 15, 1 ≤ i.val → i.val ≤ 13 → x (14 - i.val) = decryptRound dk (x (13 - i.val)) i) :
    decryptBlock m dk = addRoundKey (invShiftRows (invSubBytes (x 13))) (dk.get 0) := by
  have hfull : fullRounds.reverse.foldl (decryptRound dk) (x 0) = x 13 := foldl_eq_of_steps fun n (hn : n < 13) => by
    have hstep := hround ⟨13 - n, by omega⟩ (by simp; omega) (by simp)
    rw [getElem_reverse_fullRounds ⟨n, hn⟩]
    simpa only [show 14 - (13 - n) = n + 1 by omega, show 13 - (13 - n) = n by omega] using hstep
  rw [decryptBlock, ← h0, hfull]

/-- Settles O54: the 13 full rounds are a fold over the round numbers, rising and falling. -/
theorem roundsUseTheirKeysInOrder : Obligations.RoundsUseTheirKeysInOrder :=
  ⟨fun _ _ _ => encryptBlock_eq_of_rounds, fun _ _ _ => decryptBlock_eq_of_rounds⟩

/-! ## The steps of a round undone -/

@[simp] theorem invMixColumns_mixColumns (m : Matrix4) : invMixColumns (mixColumns m) = m :=
  mapColumns_leftInverse invMixColumn_mixColumn m

@[simp] theorem mixColumns_invMixColumns (m : Matrix4) : mixColumns (invMixColumns m) = m :=
  mapColumns_leftInverse mixColumn_invMixColumn m

theorem invMixColumns_addRoundKey (m k : Matrix4) :
    invMixColumns (addRoundKey m k) = addRoundKey (invMixColumns m) (invMixColumns k) :=
  mapColumns_addRoundKey invMixColumn_multipliesBy.map_xorWord m k

/-- A byte map does not see where a byte stands. -/
theorem mapBytes_shiftRows (f : Byte → Byte) (m : Matrix4) : mapBytes f (shiftRows m) = shiftRows (mapBytes f m) :=
  matrix_ext fun c r => by simp only [cell_mapBytes, cell_shiftRows]

@[simp] theorem invShiftRows_invSubBytes_shiftRows_subBytes (m : Matrix4) :
    invShiftRows (invSubBytes (shiftRows (subBytes m))) = m := by
  rw [invSubBytes, mapBytes_shiftRows, invShiftRows_shiftRows]
  exact mapBytes_leftInverse invSbox_sbox m

@[simp] theorem shiftRows_subBytes_invShiftRows_invSubBytes (m : Matrix4) :
    shiftRows (subBytes (invShiftRows (invSubBytes m))) = m := by
  rw [subBytes, ← mapBytes_shiftRows, shiftRows_invShiftRows]
  exact mapBytes_leftInverse sbox_invSbox m

/-! ## A full round under a schedule and its prepared inverse (R135) -/

section
variable (rk : Schedule) {i : Fin 15} (hi : i ∈ fullRounds) (m : Matrix4)
include hi

theorem decryptRound_prepareInverse :
    decryptRound (prepareInverse rk) m i = invMixColumns (addRoundKey (invShiftRows (invSubBytes m)) (rk.get i)) := by
  rw [decryptRound, prepareInverse_get, if_pos (fullRounds_bounds i hi), invMixColumns_addRoundKey]

theorem decryptRound_encryptRound :
    decryptRound (prepareInverse rk) (shiftRows (subBytes (encryptRound rk m i))) i = shiftRows (subBytes m) := by
  rw [decryptRound_prepareInverse rk hi, invShiftRows_invSubBytes_shiftRows_subBytes, encryptRound,
    addRoundKey_addRoundKey, invMixColumns_mixColumns]

theorem encryptRound_decryptRound :
    encryptRound rk (invShiftRows (invSubBytes (decryptRound (prepareInverse rk) m i))) i =
      invShiftRows (invSubBytes m) := by
  rw [encryptRound, shiftRows_subBytes_invShiftRows_invSubBytes, decryptRound_prepareInverse rk hi,
    mixColumns_invMixColumns, addRoundKey_addRoundKey]

end

/-! ## The pipelines undone -/

/-- When each step of `e`, seen through `g`, is undone by a step of `d`, a fold of `e` is undone by the reverse fold of `d`. -/
theorem foldl_reverse_foldl {α β ι : Type} {e : α → ι → α} {d : β → ι → β} {g : α → β} {l : List ι}
    (h : ∀ i ∈ l, ∀ a, d (g (e a i)) i = g a) (a : α) : l.reverse.foldl d (g (l.foldl e a)) = g a := by
  induction l generalizing a with
  | nil => rfl
  | cons i l ih =>
    have hrest := ih (fun j hj => h j (List.mem_cons_of_mem i hj)) (e a i)
    rw [List.foldl_cons, List.reverse_cons, List.foldl_append, hrest]
    exact h i List.mem_cons_self a

theorem foldl_decryptRound_foldl_encryptRound (rk : Schedule) (m : Matrix4) :
    fullRounds.reverse.foldl (decryptRound (prepareInverse rk))
      (shiftRows (subBytes (fullRounds.foldl (encryptRound rk) m))) = shiftRows (subBytes m) :=
  foldl_reverse_foldl (g := fun m => shiftRows (subBytes m)) (fun _ => decryptRound_encryptRound rk) m

theorem foldl_encryptRound_foldl_decryptRound (rk : Schedule) (m : Matrix4) :
    fullRounds.foldl (encryptRound rk)
      (invShiftRows (invSubBytes (fullRounds.reverse.foldl (decryptRound (prepareInverse rk)) m))) =
      invShiftRows (invSubBytes m) :=
  foldl_reverse_foldl (g := fun m => invShiftRows (invSubBytes m)) (l := fullRounds.reverse)
    (fun _ hi => encryptRound_decryptRound rk (List.mem_reverse.mp hi)) m

theorem prepareInverse_get_zero (rk : Schedule) : (prepareInverse rk).get 0 = rk.get 0 := prepareInverse_get rk 0

theorem prepareInverse_get_last (rk : Schedule) : (prepareInverse rk).get 14 = rk.get 14 := prepareInverse_get rk 14

theorem decryptBlock_encryptBlock (rk : Schedule) (m : Matrix4) : decryptBlock (encryptBlock m rk) (prepareInverse rk) = m := by
  rw [decryptBlock, encryptBlock, prepareInverse_get_zero, prepareInverse_get_last, addRoundKey_addRoundKey,
    foldl_decryptRound_foldl_encryptRound, invShiftRows_invSubBytes_shiftRows_subBytes, addRoundKey_addRoundKey]

theorem encryptBlock_decryptBlock (rk : Schedule) (m : Matrix4) : encryptBlock (decryptBlock m (prepareInverse rk)) rk = m := by
  rw [encryptBlock, decryptBlock, prepareInverse_get_zero, prepareInverse_get_last, addRoundKey_addRoundKey,
    foldl_encryptRound_foldl_decryptRound, shiftRows_subBytes_invShiftRows_invSubBytes, addRoundKey_addRoundKey]

theorem expandKey_true (key : Bytes 32) : expandKey key true = prepareInverse (expandKey key false) := rfl

/-- Settles O56: the laws hold of every schedule and its prepared inverse, and the two modes' schedules are such a pair. -/
theorem decryptionInvertsEncryption : Obligations.DecryptionInvertsEncryption := by
  intro key m
  rw [expandKey_true]
  exact ⟨decryptBlock_encryptBlock _ m, encryptBlock_decryptBlock _ m⟩

end Sys2Proof.Machine
end

section
/-!
PROOFS. The issue and the completion of the four commands (R150 to R157), said once for each command: which answer `exec` gives
in which state, and that the engine's turn answers the completion of the command in PEND (O24).
-/

namespace Sys2Proof.Machine

open Sys2Proof

/-! ## Issue -/

theorem checkSchedule_of_kv_false {d : Bool} {f : Status} (h : f.kv = false) : checkSchedule d f = some noSchedule :=
  if_pos h

theorem checkSchedule_of_kd_ne {d : Bool} {f : Status} (hv : f.kv = true) (hd : f.kd ≠ d) :
    checkSchedule d f = some modeMismatch := by
  rw [checkSchedule, if_neg (by simp [hv]), if_pos hd]

section
variable {s : State}

/-- While BUSY = 1 every command is dropped (R56). -/
theorem exec_busy (i : Instr) (hb : s.status.busy = true) : exec i s = .next (recordError busyWrite s) := by
  cases i <;> exact congrArg Host.Outcome.next (issue_busy hb)

/-- KEYEXP is accepted in every idle state, in either mode (R153, R154). -/
theorem exec_keyexp {i : Instr} (hi : i = .keyexpE ∨ i = .keyexpD) (hb : s.status.busy = false) :
    exec i s = .next (invalidateSchedule (accept i (clearError s))) := by
  rcases hi with rfl | rfl <;> exact congrArg Host.Outcome.next (issue_accepted hb rfl)

/-- ENC and DEC need a schedule (R150). -/
theorem exec_block_noSchedule {i : Instr} (hi : i = .enc ∨ i = .dec) (hb : s.status.busy = false)
    (hv : s.status.kv = false) : exec i s = .next (recordError noSchedule (clearError s)) := by
  rcases hi with rfl | rfl <;> exact congrArg Host.Outcome.next (issue_refused hb (checkSchedule_of_kv_false hv))

/-- ENC is refused under a decryption-mode schedule, DEC under an encryption-mode one (R150). -/
theorem exec_block_modeMismatch {i : Instr} (hi : i = .enc ∧ s.status.kd = true ∨ i = .dec ∧ s.status.kd = false)
    (hb : s.status.busy = false) (hv : s.status.kv = true) :
    exec i s = .next (recordError modeMismatch (clearError s)) := by
  rcases hi with ⟨rfl, hd⟩ | ⟨rfl, hd⟩ <;>
    exact congrArg Host.Outcome.next (issue_refused hb (checkSchedule_of_kd_ne hv (by simp [hd])))

/-- ENC is accepted under an encryption-mode schedule, DEC under a decryption-mode one (R155, R156). -/
theorem exec_block_accepted {i : Instr} (hi : i = .enc ∧ s.status.kd = false ∨ i = .dec ∧ s.status.kd = true)
    (hb : s.status.busy = false) (hv : s.status.kv = true) :
    exec i s = .next (setOutputValid false (accept i (clearError s))) := by
  rcases hi with ⟨rfl, hd⟩ | ⟨rfl, hd⟩ <;>
    exact congrArg Host.Outcome.next (issue_accepted hb (checkSchedule_none.mpr ⟨hv, hd⟩))

/-- A command is dropped, refused with a code, or accepted with its issue effects (R56, R150 to R152). -/
theorem exec_cases {i : Instr} {t : State} (h : exec i s = .next t) :
    (s.status.busy = true ∧ t = recordError busyWrite s) ∨
    (s.status.busy = false ∧ ∃ code, t = recordError code (clearError s)) ∨
    (s.status.busy = false ∧ ∃ effects, (effects = invalidateSchedule ∨ effects = setOutputValid false) ∧
      t = effects (accept i (clearError s))) := by
  obtain ⟨check, effects, heffects, hissue⟩ : ∃ check effects,
      (effects = invalidateSchedule ∨ effects = setOutputValid false) ∧ exec i s = .next (issue i check effects s) := by
    cases i with
    | keyexpE => exact ⟨_, _, .inl rfl, rfl⟩
    | keyexpD => exact ⟨_, _, .inl rfl, rfl⟩
    | enc => exact ⟨_, _, .inr rfl, rfl⟩
    | dec => exact ⟨_, _, .inr rfl, rfl⟩
  obtain rfl := Host.Outcome.next.inj (hissue.symm.trans h)
  exact (issue_cases i check effects s).imp id
    (.imp (fun ⟨hb, code, _, hcode⟩ => ⟨hb, code, hcode⟩) fun ⟨hb, _, haccept⟩ => ⟨hb, effects, heffects, haccept⟩)

/-- The issue of a command leaves the operands (R151, R152). -/
theorem exec_operands {i : Instr} {t : State} (h : exec i s = .next t) : t.key = s.key ∧ t.din = s.din ∧ t.rk = s.rk := by
  obtain ⟨-, rfl⟩ | ⟨-, code, rfl⟩ | ⟨-, effects, rfl | rfl, rfl⟩ := exec_cases h <;> exact ⟨rfl, rfl, rfl⟩

/-- A command that an idle core answers with BUSY = 1 is the one in flight (R28, R151). -/
theorem exec_pend_of_accepted {i : Instr} {t : State} (h : exec i s = .next t) (hs : s.status.busy = false)
    (ht : t.status.busy = true) : t.pend = some i := by
  obtain ⟨hb, -⟩ | ⟨-, code, rfl⟩ | ⟨-, effects, rfl | rfl, rfl⟩ := exec_cases h
  · simp [hs] at hb
  · simp [hs] at ht
  · rfl
  · rfl

end

/-! ## Completion -/

/-- With a command in flight the engine's turn answers its completion and nothing else. -/
theorem eq_completion_of_engineTurn {s t : State} {i : Instr} (hb : s.status.busy = true) (hp : s.pend = some i)
    (h : engineTurn s = .next t) : t = completion i s :=
  (Host.Outcome.next.inj ((engineTurn_busy hb hp).symm.trans h)).symm

theorem completion_keyexpE (s : State) : completion .keyexpE s = { s with
    rk := expandKey s.key false, pend := none
    status := { s.status with busy := false, kv := true, kd := false } } := by
  simp only [completion, completeKeyexpE, retire, writeSchedule, Status.withBusy, Status.scheduleValid]

theorem completion_keyexpD (s : State) : completion .keyexpD s = { s with
    rk := expandKey s.key true, pend := none
    status := { s.status with busy := false, kv := true, kd := true } } := by
  simp only [completion, completeKeyexpD, retire, writeSchedule, Status.withBusy, Status.scheduleValid]

theorem completion_enc (s : State) : completion .enc s = { s with
    st := encryptBlock (loadState s.din) s.rk, dout := encryptBytes s.rk s.din, pend := none
    status := { s.status with busy := false, ov := true } } := by
  simp only [completion, completeEnc, retire, writeBlock, encryptBytes, Status.withBusy, Status.withOutput]

theorem completion_dec (s : State) : completion .dec s = { s with
    st := decryptBlock (loadState s.din) s.rk, dout := decryptBytes s.rk s.din, pend := none
    status := { s.status with busy := false, ov := true } } := by
  simp only [completion, completeDec, retire, writeBlock, decryptBytes, Status.withBusy, Status.withOutput]

/-- The schedule that a KEYEXP makes is a function of KEY (R160). -/
theorem completion_rk_congr {s t : State} {i : Instr} (hi : i = .keyexpE ∨ i = .keyexpD) (hkey : s.key = t.key) :
    (completion i s).rk = (completion i t).rk := by
  rcases hi with rfl | rfl <;> simp [completion_keyexpE, completion_keyexpD, hkey]

/-- The result of a block command is a function of DIN and RK (R160). -/
theorem completion_output_congr {s t : State} {i : Instr} (hi : i = .enc ∨ i = .dec) (hdin : s.din = t.din)
    (hrk : s.rk = t.rk) : (completion i s).st = (completion i t).st ∧ (completion i s).dout = (completion i t).dout := by
  rcases hi with rfl | rfl <;> simp [completion_enc, completion_dec, hdin, hrk]

/-- A block command leaves the schedule and what STATUS says of it (R155, R156). -/
theorem completion_block_schedule {i : Instr} (hi : i = .enc ∨ i = .dec) (s : State) : (completion i s).rk = s.rk ∧
    (completion i s).status.kv = s.status.kv ∧ (completion i s).status.kd = s.status.kd := by
  rcases hi with rfl | rfl <;> simp [completion_enc, completion_dec]

/-- A block command issued right after its own completion is accepted and gives the same DOUT (R155, R156). -/
theorem dout_of_second_block {s t u v : State} {i : Instr}
    (hi : i = .enc ∧ s.status.kd = false ∨ i = .dec ∧ s.status.kd = true) (hb : s.status.busy = true)
    (hp : s.pend = some i) (hv : s.status.kv = true) (hfirst : engineTurn s = .next t) (hissue : exec i t = .next u)
    (hsecond : engineTurn u = .next v) : v.dout = t.dout := by
  have hblock : i = .enc ∨ i = .dec := hi.imp And.left And.left
  obtain ⟨hrk, hkv, hkd⟩ := completion_block_schedule hblock s
  obtain rfl := eq_completion_of_engineTurn hb hp hfirst
  have haccepted := exec_block_accepted (s := completion i s) (by rwa [hkd]) (completion_busy i s) (hkv.trans hv)
  obtain rfl := Host.Outcome.next.inj (haccepted.symm.trans hissue)
  obtain rfl := eq_completion_of_engineTurn (i := i) (by simp) (by simp) hsecond
  exact (completion_output_congr hblock (by simp) (by simp [hrk])).2

/-- Settles O24: the idle engine's turn, and the completion of each command. -/
theorem completionIsOneAtomicStep : Obligations.CompletionIsOneAtomicStep := by
  refine ⟨fun s => engineTurn_idle, fun s i hb hp => ⟨completion i s, engineTurn_busy hb hp, completion_pend i s,
    completion_busy i s, completion_err i s, completion_ecode i s, completion_key i s, completion_din i s, ?_, ?_, ?_, ?_⟩⟩
  all_goals
    rintro rfl
    exact ⟨rfl, rfl, rfl⟩

end Sys2Proof.Machine
end

section
/-!
PROOFS. The four commands (O18 to O21), each from its issue, its completion and the rule's example.
-/

namespace Sys2Proof.Machine

open Sys2Proof

/-! ## The examples of R153 to R156 -/

/-- The read of 0x120, the first column of RK[2]. -/
theorem hostAccess_read_roundKey_two {t : State} {k : Matrix4} (hb : t.status.busy = false) (hk : t.rk.get 2 = k) :
    hostAccess (readAt 0x120) t = .next (respond (.data (busWordOf k.c0.r0 k.c0.r1 k.c0.r2 k.c0.r3)) t) :=
  hk ▸ hostAccess_read_rk hb 2 0

theorem expandKey_exampleKey_false_get_two : (expandKey exampleKey false).get 2 =
    ⟨⟨0xA5, 0x73, 0xC2, 0x9F⟩, ⟨0xA1, 0x76, 0xC4, 0x98⟩, ⟨0xA9, 0x7F, 0xCE, 0x93⟩, ⟨0xA5, 0x72, 0xC0, 0x9C⟩⟩ := by
  decide +kernel

theorem expandKey_exampleKey_true_get_two : (expandKey exampleKey true).get 2 =
    ⟨⟨42, 40, 64, 201⟩, ⟨36, 35, 76, 192⟩, ⟨38, 36, 76, 197⟩, ⟨32, 39, 72, 196⟩⟩ := by
  rw [expandKey_true_get, expandKey_exampleKey_false_get_two]
  decide

/-- The read of 0x030, the first four bytes of DOUT. -/
theorem hostAccess_read_dout_zero {t : State} {b : Bytes 16} (hb : t.status.busy = false) (hdout : t.dout = b) :
    hostAccess (readAt 0x030) t = .next (respond (.data (busWordOf b[0] b[1] b[2] b[3])) t) :=
  hdout ▸ hostAccess_read_dout hb 0

/-- The block of the examples, encrypted (T-D20). -/
theorem encryptBytes_exampleBlock : encryptBytes (expandKey exampleKey false) exampleBlock = exampleCipher := by
  decide +kernel

/-- Decryption undoes encryption on bytes too (R144, R24). -/
theorem decryptBytes_encryptBytes (key : Bytes 32) (b : Bytes 16) :
    decryptBytes (expandKey key true) (encryptBytes (expandKey key false) b) = b := by
  rw [decryptBytes, encryptBytes, loadState_storeState, expandKey_true, decryptBlock_encryptBlock, storeState_loadState]

/-! ## KEYEXP -/

/-- Settles O18: a second KEYEXP.E gives the schedule that the invariant says is in RK already. -/
theorem keyexpEncryptionCommand : Obligations.KeyexpEncryptionCommand := by
  refine ⟨decode_keyexpE, fun s => exec_keyexp (.inl rfl),
    fun s hb hp => completion_keyexpE s ▸ engineTurn_busy hb hp, fun s => exec_busy .keyexpE,
    fun s t u hinv hb hv hd hissue hcomplete => ?again, fun s t hkey hb hp hcomplete => ?vector⟩
  case again =>
    obtain rfl := Host.Outcome.next.inj ((exec_keyexp (.inl rfl) hb).symm.trans hissue)
    obtain rfl := eq_completion_of_engineTurn (i := .keyexpE) rfl rfl hcomplete
    have hrk : s.rk = expandKey s.key false := hd ▸ hinv.scheduleMatchesKey hv
    exact hrk.symm
  case vector =>
    obtain rfl := eq_completion_of_engineTurn hb hp hcomplete
    have hrk : (completion .keyexpE s).rk = expandKey exampleKey false := hkey ▸ rfl
    exact hostAccess_read_roundKey_two (completion_busy .keyexpE s) (hrk ▸ expandKey_exampleKey_false_get_two)

/-- Settles O19: the schedule differs from KEYEXP.E's by InvMixColumns on the round keys 1 to 13 alone. -/
theorem keyexpDecryptionCommand : Obligations.KeyexpDecryptionCommand := by
  refine ⟨decode_keyexpD, fun s => exec_keyexp (.inr rfl),
    fun s hb hp => completion_keyexpD s ▸ engineTurn_busy hb hp, fun s => exec_busy .keyexpD,
    fun s t hb hp hcomplete => ?ends, fun s t hkey hb hp hcomplete => ?vector⟩
  case ends =>
    obtain rfl := eq_completion_of_engineTurn hb hp hcomplete
    exact ⟨prepareInverse_get_zero _, prepareInverse_get_last _⟩
  case vector =>
    obtain rfl := eq_completion_of_engineTurn hb hp hcomplete
    have hrk : (completion .keyexpD s).rk = expandKey exampleKey true := hkey ▸ rfl
    have hget := hrk ▸ expandKey_exampleKey_true_get_two
    exact ⟨hget, hostAccess_read_roundKey_two (completion_busy .keyexpD s) hget⟩

/-! ## ENC and DEC -/

/-- Settles O20: issue and refusals by the check of R150, the second ENC by its unchanged operands. -/
theorem encCommand : Obligations.EncCommand := by
  refine ⟨decode_enc, fun s hb hv hd => exec_block_accepted (.inl ⟨rfl, hd⟩) hb hv,
    fun s => exec_block_noSchedule (.inl rfl), fun s hb hv hd => exec_block_modeMismatch (.inl ⟨rfl, hd⟩) hb hv,
    fun s => exec_busy .enc, fun s hb hp => completion_enc s ▸ engineTurn_busy hb hp,
    fun s t u v hb hp hv hd => dout_of_second_block (.inl ⟨rfl, hd⟩) hb hp hv,
    fun s t hrk hdin hb hp hcomplete => ?vector⟩
  case vector =>
    obtain rfl := eq_completion_of_engineTurn hb hp hcomplete
    have hblock : (completion .enc s).dout = encryptBytes s.rk s.din := rfl
    have hdout : (completion .enc s).dout = exampleCipher := by rw [hblock, hrk, hdin, encryptBytes_exampleBlock]
    exact ⟨hdout, hostAccess_read_dout_zero (completion_busy .enc s) hdout⟩

/-- Settles O21: as for ENC; the example is that of ENC, decrypted. -/
theorem decCommand : Obligations.DecCommand := by
  refine ⟨decode_dec, fun s hb hv hd => exec_block_accepted (.inr ⟨rfl, hd⟩) hb hv,
    fun s => exec_block_noSchedule (.inr rfl), fun s hb hv hd => exec_block_modeMismatch (.inr ⟨rfl, hd⟩) hb hv,
    fun s => exec_busy .dec, fun s hb hp => completion_dec s ▸ engineTurn_busy hb hp,
    fun s t u v hb hp hv hd => dout_of_second_block (.inr ⟨rfl, hd⟩) hb hp hv,
    fun s t hrk hdin hb hp hcomplete => ?vector⟩
  case vector =>
    obtain rfl := eq_completion_of_engineTurn hb hp hcomplete
    have hblock : (completion .dec s).dout = decryptBytes s.rk s.din := rfl
    rw [hblock, hrk, hdin, ← encryptBytes_exampleBlock, decryptBytes_encryptBytes]

end Sys2Proof.Machine
end

section
/-!
PROOFS. What the results depend on (O36): the operands in flight stay as they were at the issue, and no step but a reset and a
read of DOUT or RK while BUSY = 1 makes a draw.
-/

namespace Sys2Proof.Machine

open Sys2Proof

/-! ## The operands of a command in flight -/

/-- A command keeps its operands as long as it stays in flight (R64). -/
theorem Effect.keeps_operands {s t : State} (he : Effect s t) (hs : s.status.busy = true) (ht : t.status.busy = true) :
    t.pend = s.pend ∧ t.key = s.key ∧ t.din = s.din ∧ t.rk = s.rk := by
  cases he with
  | answered => exact ⟨rfl, rfl, rfl, rfl⟩
  | drawn => exact ⟨rfl, rfl, rfl, rfl⟩
  | dropped => exact ⟨rfl, rfl, rfl, rfl⟩
  | keyWritten _ _ hb => simp [hs] at hb
  | dinWritten _ _ hb => simp [hs] at hb
  | refusedCommand _ hb => simp [hs] at hb
  | issuedKeyexp _ hb => simp [hs] at hb
  | issuedEnc hb => simp [hs] at hb
  | issuedDec hb => simp [hs] at hb
  | idle => exact ⟨rfl, rfl, rfl, rfl⟩
  | completedKeyexpE => simp at ht
  | completedKeyexpD => simp at ht
  | completedEnc => simp at ht
  | completedDec => simp at ht
  | reset => simp at ht

/-! ## The steps that draw -/

theorem engineTurn_draws {s t : State} (h : engineTurn s = .next t) : t.draws = s.draws := by
  obtain ⟨-, rfl⟩ | ⟨-, i, -, rfl⟩ := engineTurn_cases h
  · rfl
  · exact completion_draws i s

theorem cmdWrite_draws {v : BusWord} {s t : State} (hb : s.status.busy = false) (h : cmdWrite v s = .next t) :
    t.draws = s.draws := by
  obtain ⟨code, -, rfl⟩ | ⟨i, -, -, rfl⟩ | ⟨i, -, -, -, -, rfl⟩ := cmdWrite_cases hb h <;> rfl

/-- A host access draws only where it reads DOUT or RK while BUSY = 1 (R59). -/
theorem hostAccess_draws {a : Access} {s t : State} (h : hostAccess a s = .next t) :
    t.draws = s.draws ∨
    (s.status.busy = true ∧ a = ⟨.read, a.offset, 32⟩ ∧ (regionOf a.offset.val = .dout ∨ regionOf a.offset.val = .rk)) := by
  obtain ⟨r, rfl⟩ | ⟨hb, ha, hr, -⟩ | ⟨-, rfl⟩ | ⟨-, j, v, -, rfl⟩ | ⟨-, j, v, -, rfl⟩ | ⟨hb, v, -, hcmd⟩ :=
    hostAccess_cases h
  · exact .inl (respond_draws r s)
  · exact .inr ⟨hb, ha, hr⟩
  · simp
  · simp
  · simp
  · exact .inl (cmdWrite_draws (s := respond .done s) hb hcmd)

/-- A step draws only where it is a reset or such a read. -/
theorem step_draws {s t : State} (h : step s = .next t) :
    t.draws = s.draws ∨ (∃ rest, s.turns = .reset :: rest) ∨
    (s.status.busy = true ∧ ∃ (o : Fin 512) (rest : List Turn), s.turns = .host ⟨.read, o, 32⟩ :: rest ∧
      (regionOf o.val = .dout ∨ regionOf o.val = .rk)) := by
  obtain ⟨-, hengine⟩ | ⟨rest, -, hengine⟩ | ⟨a, rest, hturns, haccess⟩ | ⟨rest, hturns, -⟩ := step_turn_cases h
  · exact .inl (engineTurn_draws hengine)
  · exact .inl (engineTurn_draws (s := { s with turns := rest }) hengine)
  · exact (hostAccess_draws haccess).imp id fun ⟨hb, ha, hr⟩ => .inr ⟨hb, a.offset, rest, ha ▸ hturns, hr⟩
  · exact .inr (.inl ⟨rest, hturns⟩)

/-! ## Two completions from the same operands -/

theorem completions_agree {s₁ s₂ t₁ t₂ : State} {i : Instr} (hb₁ : s₁.status.busy = true)
    (hb₂ : s₂.status.busy = true) (hp₁ : s₁.pend = some i) (hp₂ : s₂.pend = some i) (hkey : s₁.key = s₂.key)
    (hdin : s₁.din = s₂.din) (hrk : s₁.rk = s₂.rk) (h₁ : engineTurn s₁ = .next t₁) (h₂ : engineTurn s₂ = .next t₂) :
    (i = .keyexpE ∨ i = .keyexpD → t₁.rk = t₂.rk) ∧ (i = .enc ∨ i = .dec → t₁.st = t₂.st ∧ t₁.dout = t₂.dout) := by
  obtain rfl := eq_completion_of_engineTurn hb₁ hp₁ h₁
  obtain rfl := eq_completion_of_engineTurn hb₂ hp₂ h₂
  exact ⟨fun hi => completion_rk_congr hi hkey, fun hi => completion_output_congr hi hdin hrk⟩

/-- Settles O36: the issue leaves the operands, so two accepted commands are two commands in flight with the same ones. -/
theorem resultsDependOnOperandsAlone : Obligations.ResultsDependOnOperandsAlone := by
  refine ⟨fun s₁ s₂ t₁ t₂ i => completions_agree, fun s₁ s₂ u₁ u₂ t₁ t₂ i hkey hdin hrk hs₁ hs₂ he₁ he₂ hu₁ hu₂ => ?issued,
    fun s u hs h hu => (step_effect h).keeps_operands hs hu, fun s t h hne => (step_draws h).resolve_left hne⟩
  case issued =>
    obtain ⟨hkey₁, hdin₁, hrk₁⟩ := exec_operands he₁
    obtain ⟨hkey₂, hdin₂, hrk₂⟩ := exec_operands he₂
    exact completions_agree hu₁ hu₂ (exec_pend_of_accepted he₁ hs₁ hu₁) (exec_pend_of_accepted he₂ hs₂ hu₂)
      (by rw [hkey₁, hkey, hkey₂]) (by rw [hdin₁, hdin, hdin₂]) (by rw [hrk₁, hrk, hrk₂])

end Sys2Proof.Machine
end

section
/-!
PROOFS. The host's key mapping (O57) and the round trip of its two streams (O59). The strides of a byte sequence, joined, are its
whole blocks, and a sequence of whole blocks has those blocks as its strides.
-/

namespace Sys2Proof.Machine

open Sys2Proof

/-! ## The key mapping (R171) -/

theorem keyFromUtf8_get (u : List Byte) (k : Fin 32) :
    (keyFromUtf8 u).get k = if h : k.val < u.length then u[k.val] else 0x00#8 := by
  rw [keyFromUtf8, ofFn_get]
  split
  · next h => exact List.getD_eq_getElem u 0 h
  · next h => exact List.getD_eq_default u 0 (Nat.le_of_not_lt h)

@[simp] theorem utf8Bytes_empty : utf8Bytes "" = [] := rfl

/-- Settles O57: the mapping byte by byte; the two examples are evaluated. -/
theorem keyMappingTruncatesOrZeroFills : Obligations.KeyMappingTruncatesOrZeroFills := by
  refine ⟨fun t => keyFromUtf8_get (utf8Bytes t), fun k => ?empty, by decide +kernel, by decide +kernel⟩
  rw [keyFromString, utf8Bytes_empty, keyFromUtf8_get]
  exact dif_neg (Nat.not_lt_zero _)

/-! ## Strides (R172) -/

@[simp] theorem getElem_strideBlock (q : List Byte) (j : Nat) {k : Nat} (hk : k < 16) :
    (strideBlock q j)[k] = q.getD (16 * j + k) 0 := by
  simp [strideBlock]

theorem toList_strideBlock {q : List Byte} {j : Nat} (h : 16 * j + 16 ≤ q.length) :
    (strideBlock q j).toList = (q.drop (16 * j)).take 16 := by
  refine List.ext_getElem (by simp; omega) fun k hk _ => ?_
  have hk16 : k < 16 := by simpa using hk
  rw [Vector.getElem_toList, getElem_strideBlock q j hk16, List.getD_eq_getElem q 0 (by omega), List.getElem_take,
    List.getElem_drop]

theorem flatMap_strideBlock_range {q : List Byte} {n : Nat} (h : 16 * n ≤ q.length) :
    (List.range n).flatMap (fun j => (strideBlock q j).toList) = q.take (16 * n) := by
  induction n with
  | zero => rfl
  | succ n ih =>
    rw [List.range_succ, List.flatMap_append, ih (by omega), List.flatMap_singleton, toList_strideBlock (by omega), Nat.mul_succ,
      List.take_add]

/-- The strides in order are the sequence without its last `len(q) mod 16` bytes. -/
theorem flatMap_toList_strides (q : List Byte) : (strides q).flatMap Vector.toList = q.take (16 * (q.length / 16)) := by
  rw [strides, List.flatMap_map, flatMap_strideBlock_range (Nat.mul_div_le q.length 16)]

theorem strideBlock_toList_append_zero (b : Bytes 16) (q : List Byte) : strideBlock (b.toList ++ q) 0 = b := by
  refine Vector.ext fun k hk => ?_
  rw [getElem_strideBlock _ _ hk, Nat.mul_zero, Nat.zero_add, List.getD_append _ _ _ _ (by simpa using hk),
    List.getD_eq_getElem _ _ (by simpa using hk), Vector.getElem_toList]

theorem strideBlock_toList_append_succ (b : Bytes 16) (q : List Byte) (j : Nat) :
    strideBlock (b.toList ++ q) (j + 1) = strideBlock q j := by
  refine Vector.ext fun k hk => ?_
  rw [getElem_strideBlock _ _ hk, getElem_strideBlock _ _ hk, List.getD_append_right _ _ _ _ (by simp; omega), Vector.length_toList]
  congr 1
  omega

theorem strides_toList_append (b : Bytes 16) (q : List Byte) : strides (b.toList ++ q) = b :: strides q := by
  have hcount : (b.toList ++ q).length / 16 = q.length / 16 + 1 := by simp
  rw [strides, strides, hcount]
  simp [List.range_succ_eq_map, strideBlock_toList_append_zero, strideBlock_toList_append_succ]

theorem strides_flatMap_toList (bs : List (Bytes 16)) : strides (bs.flatMap Vector.toList) = bs := by
  induction bs with
  | nil => rfl
  | cons b bs ih => rw [List.flatMap_cons, strides_toList_append, ih]

/-! ## The two streams (R172 to R174) -/

theorem encryptBlockStream_eq (p : List Byte) (key : Bytes 32) : encryptBlockStream p key =
    ((strides (padForEncryption p)).map (encryptBytes (expandKey key false))).flatMap Vector.toList :=
  (List.flatMap_map _ _ _).symm

/-- A sequence of whole blocks is decrypted block by block, without padding (R173). -/
theorem decryptBlockStream_flatMap_toList (bs : List (Bytes 16)) (key : Bytes 32) :
    decryptBlockStream (bs.flatMap Vector.toList) key = bs.flatMap fun b => (decryptBytes (expandKey key true) b).toList := by
  have hpad : padForDecryption (bs.flatMap Vector.toList) = bs.flatMap Vector.toList := by
    simp [padForDecryption]
  rw [decryptBlockStream, hpad, strides_flatMap_toList]

/-- What comes back is the whole blocks of the padded input. -/
theorem decryptBlockStream_encryptBlockStream (p : List Byte) (key : Bytes 32) :
    decryptBlockStream (encryptBlockStream p key) key =
      (padForEncryption p).take (16 * ((padForEncryption p).length / 16)) := by
  rw [encryptBlockStream_eq, decryptBlockStream_flatMap_toList, List.flatMap_map]
  simp only [decryptBytes_encryptBytes]
  exact flatMap_toList_strides _

theorem length_padForEncryption (p : List Byte) : (padForEncryption p).length = p.length + (p.length % 16 + 16) := by
  simp [padForEncryption]

/-- Cutting the padded input at or after the end of the input leaves the input and part of the padding. -/
theorem take_padForEncryption {p : List Byte} {n : Nat} (h : n ≤ p.length % 16 + 16) :
    (padForEncryption p).take (p.length + n) = p ++ List.replicate n paddingByte := by
  rw [padForEncryption, List.take_length_add_append, List.take_replicate, Nat.min_eq_left h]

/-- How many padding bytes come back behind an input of `len` bytes: those of the padding that stand in a whole block. -/
def paddingReturned (len : Nat) : Nat := 16 * ((len + (len % 16 + 16)) / 16) - len

theorem add_paddingReturned (len : Nat) : len + paddingReturned len = 16 * ((len + (len % 16 + 16)) / 16) := by
  unfold paddingReturned
  omega

theorem paddingReturned_le (len : Nat) : paddingReturned len ≤ len % 16 + 16 := by
  unfold paddingReturned
  omega

theorem paddingReturned_of_mod_eq_zero {len : Nat} (h : len % 16 = 0) : paddingReturned len = 16 := by
  unfold paddingReturned
  omega

/-- R174 with its count: the input and the padding bytes that stand in a whole block of the padded input. -/
theorem streamRoundTrip_eq (p : List Byte) (key : Bytes 32) : decryptBlockStream (encryptBlockStream p key) key =
    p ++ List.replicate (paddingReturned p.length) paddingByte := by
  rw [decryptBlockStream_encryptBlockStream, length_padForEncryption, ← add_paddingReturned,
    take_padForEncryption (paddingReturned_le p.length)]

/-- Settles O59: the strides come back block by block (R144), and they hold the whole input. -/
theorem streamRoundTrip : Obligations.StreamRoundTrip := by
  refine fun p key => ⟨fun h16 _ => ?exact, paddingReturned p.length, streamRoundTrip_eq p key⟩
  rw [streamRoundTrip_eq, paddingReturned_of_mod_eq_zero h16]
  rfl

end Sys2Proof.Machine
end

section
/-!
PROOFS. The recorded error (O29): a step sets BUSY_WRITE where it drops a write, and otherwise leaves ERR and ECODE, except for a
CMD write made while BUSY = 0 and a reset.
-/

namespace Sys2Proof.Machine

open Sys2Proof

/-- The engine's step leaves the error, the completion among it (R157). -/
theorem engineTurn_error {s t : State} (h : engineTurn s = .next t) :
    t.status.err = s.status.err ∧ t.status.ecode = s.status.ecode := by
  obtain ⟨-, rfl⟩ | ⟨-, i, -, rfl⟩ := engineTurn_cases h
  · exact ⟨rfl, rfl⟩
  · exact ⟨completion_err i s, completion_ecode i s⟩

/-- A host access leaves the error or records a dropped write, unless it is a CMD write while BUSY = 0. -/
theorem hostAccess_error {a : Access} {s t : State} (h : hostAccess a s = .next t) :
    (t.status.err = s.status.err ∧ t.status.ecode = s.status.ecode) ∨
    (t.status.err = true ∧ t.status.ecode = busyWrite) ∨
    (s.status.busy = false ∧ ∃ w : BusWord, a = cmdAccess w) := by
  obtain ⟨r, rfl⟩ | ⟨-, -, -, rfl⟩ | ⟨-, rfl⟩ | ⟨-, j, v, -, rfl⟩ | ⟨-, j, v, -, rfl⟩ | ⟨hb, w, ha, -⟩ :=
    hostAccess_cases h
  · exact .inl ⟨rfl, rfl⟩
  · exact .inl ⟨rfl, rfl⟩
  · exact .inr (.inl ⟨rfl, rfl⟩)
  · exact .inl ⟨rfl, rfl⟩
  · exact .inl ⟨rfl, rfl⟩
  · exact .inr (.inr ⟨hb, w, ha⟩)

/-- A step leaves the error or records a dropped write, unless it is a CMD write while BUSY = 0 or a reset. -/
theorem step_error {s t : State} (h : step s = .next t) :
    (t.status.err = s.status.err ∧ t.status.ecode = s.status.ecode) ∨
    (t.status.err = true ∧ t.status.ecode = busyWrite) ∨
    (s.status.busy = false ∧ ∃ (w : BusWord) (rest : List Turn), s.turns = .host (cmdAccess w) :: rest) ∨
    (∃ rest, s.turns = .reset :: rest) := by
  obtain ⟨-, hengine⟩ | ⟨rest, -, hengine⟩ | ⟨a, rest, hturns, haccess⟩ | ⟨rest, hturns, -⟩ := step_turn_cases h
  · exact .inl (engineTurn_error hengine)
  · exact .inl (engineTurn_error (s := { s with turns := rest }) hengine)
  · exact (hostAccess_error haccess).imp id (.imp id fun ⟨hb, w, ha⟩ => .inl ⟨hb, w, rest, ha ▸ hturns⟩)
  · exact .inr (.inr (.inr ⟨rest, hturns⟩))

/-- After a CMD write made while BUSY = 0 the error is clear where the command was accepted, and set where it was refused. -/
theorem cmdWrite_error {w : BusWord} {s t : State} (hb : s.status.busy = false) (h : cmdWrite w s = .next t) :
    if t.status.busy = true then t.status.err = false ∧ t.status.ecode = 0
    else t.status.err = true ∧ t.status.ecode ∈ [illegalCmd, noSchedule, modeMismatch] := by
  obtain ⟨code, hcode, rfl⟩ | ⟨i, -, -, rfl⟩ | ⟨i, -, -, -, -, rfl⟩ := cmdWrite_cases hb h
  · rw [if_neg (by simp [hb])]
    exact ⟨rfl, hcode⟩
  · exact ⟨rfl, rfl⟩
  · exact ⟨rfl, rfl⟩

/-- Settles O29: a step that leaves the error or records a dropped write does not take ERR or ECODE to 0. -/
theorem errorIsClearedOnlyByCmdWriteOrReset : Obligations.ErrorIsClearedOnlyByCmdWriteOrReset := by
  refine ⟨fun _ _ => rfl, fun s t h hcleared => ?cleared, fun s t w hb h => ?cmd, fun s t => engineTurn_error⟩
  case cleared =>
    obtain ⟨herr, hecode⟩ | ⟨herr, hecode⟩ | hcause := step_error h
    · simp [herr, hecode] at hcleared
    · simp [herr, hecode, busyWrite] at hcleared
    · exact hcause
  case cmd =>
    rw [hostAccess_cmdAccess] at h
    exact cmdWrite_error (s := respond .done s) hb h

end Sys2Proof.Machine
end

section
/-!
PROOFS. What the invariant gives: it holds at reset (O25) and every step keeps it (O26), so that no step stops (O28) and no block
command runs under a schedule that is not KEY's (O39).
-/

namespace Sys2Proof.Machine

open Sys2Proof

/-- Settles O25: STATUS and PEND have their reset values, and then the invariant asks nothing of KEY and RK. -/
theorem invariantAtReset : Obligations.InvariantAtReset := coreInv_reset

/-- Settles O26: every effect of a step keeps the invariant. -/
theorem stepKeepsInvariant : Obligations.StepKeepsInvariant := fun _ _ => step_keeps_coreInv

/-! ## Where a step stops -/

/-- With BUSY = 1 a command is in flight. -/
theorem CoreInv.pend_ne_none {s : State} (h : CoreInv s) (hb : s.status.busy = true) : s.pend ≠ none := fun hp => by
  simp [h.busyIffPending.mpr hp] at hb

theorem engineTurn_answers (s : State) : (∃ t, engineTurn s = .next t) ∨
    (engineTurn s = .fault .engineWithoutCommand ∧ s.status.busy = true ∧ s.pend = none) := by
  cases hb : s.status.busy with
  | false => exact .inl ⟨s, engineTurn_idle hb⟩
  | true =>
    cases hp : s.pend with
    | none => exact .inr ⟨by simp [engineTurn, hb, completeCommand, hp], rfl, rfl⟩
    | some i => exact .inl ⟨completion i s, engineTurn_busy hb hp⟩

/-- A step goes on, or it is the engine's with BUSY = 1 and PEND = none (notes/assumptions/7.md). -/
theorem step_answers (s : State) : (∃ t, step s = .next t) ∨
    (step s = .fault .engineWithoutCommand ∧ s.status.busy = true ∧ s.pend = none) := by
  unfold step nextTurn
  split
  · exact engineTurn_answers s
  · next u rest _ =>
    cases u with
    | host a => exact .inl (hostAccess_next a _)
    | engine => exact engineTurn_answers { s with turns := rest }
    | reset => exact .inl ⟨_, rfl⟩

/-- Settles O28: of the two things a step can answer, the invariant rules out the fault. -/
theorem machineNeverStops : Obligations.MachineNeverStops := by
  refine ⟨fun s hinv => ?goesOn, fun s f hfault => ?fault, fun s r hrefused => ?refused⟩
  case goesOn => exact (step_answers s).resolve_right fun ⟨_, hb, hp⟩ => hinv.pend_ne_none hb hp
  case fault =>
    obtain ⟨t, ht⟩ | ⟨-, hstop⟩ := step_answers s
    · simp [ht] at hfault
    · exact hstop
  case refused =>
    obtain ⟨t, ht⟩ | ⟨hf, -⟩ := step_answers s
    · simp [ht] at hrefused
    · simp [hf] at hrefused

/-! ## The schedule of a block command -/

/-- ENC in flight has the encryption-mode schedule of KEY (R153, R155, R37 item 4). -/
theorem CoreInv.schedule_of_enc {s : State} (h : CoreInv s) (hp : s.pend = some .enc) : s.rk = expandKey s.key false := by
  obtain ⟨hkv, hkd⟩ : s.status.kv = true ∧ s.status.kd = false := by
    simpa [PendingHasItsSchedule, hp] using h.pendingHasItsSchedule
  exact hkd ▸ h.scheduleMatchesKey hkv

/-- DEC in flight has the decryption-mode schedule of KEY (R154, R156, R37 item 4). -/
theorem CoreInv.schedule_of_dec {s : State} (h : CoreInv s) (hp : s.pend = some .dec) : s.rk = expandKey s.key true := by
  obtain ⟨hkv, hkd⟩ : s.status.kv = true ∧ s.status.kd = true := by
    simpa [PendingHasItsSchedule, hp] using h.pendingHasItsSchedule
  exact hkd ▸ h.scheduleMatchesKey hkv

/-- Only the completion of a KEYEXP sets KV (R29). -/
theorem Effect.keyexp_of_kv_set {s t : State} (he : Effect s t) (hs : s.status.kv = false) (ht : t.status.kv = true) :
    s.status.busy = true ∧ (s.pend = some .keyexpE ∨ s.pend = some .keyexpD) := by
  cases he with
  | completedKeyexpE hb hp => exact ⟨hb, .inl hp⟩
  | completedKeyexpD hb hp => exact ⟨hb, .inr hp⟩
  | _ => simp [hs] at ht

/-- Settles O39: the KEY write clears KV, and KV vouches for the schedule of every block command in flight. -/
theorem staleScheduleIsNeverUsed : Obligations.StaleScheduleIsNeverUsed := by
  refine ⟨fun s t j v hb hwrite => ?keyWrite, fun s i hi hb hv => exec_block_noSchedule hi hb hv,
    fun s t hs hstep ht => (step_effect hstep).keyexp_of_kv_set hs ht,
    fun s hinv => ⟨hinv.schedule_of_enc, hinv.schedule_of_dec⟩⟩
  case keyWrite =>
    rw [hostAccess_write_key (by omega) (by omega) hb] at hwrite
    obtain rfl := Host.Outcome.next.inj hwrite
    exact ⟨invalidateSchedule_rk _, by simp⟩

end Sys2Proof.Machine
end

section
/-!
PROOFS. Noninterference of the draws (O37): each operation of a step, taken in two states that agree up to what was drawn, gives
two states that agree. The invariant is needed in one place: a block command in flight runs where KV = 1, and there the two
states have one schedule.
-/

namespace Sys2Proof.Machine

open Sys2Proof

/-! ## The operations -/

section
variable {s t : State}

theorem AgreeUpToDraws.withTurns (h : AgreeUpToDraws s t) (ts : List Turn) :
    AgreeUpToDraws { s with turns := ts } { t with turns := ts } :=
  { h with turns := rfl }

/-- The two hosts may be answered differently. -/
theorem AgreeUpToDraws.respond (h : AgreeUpToDraws s t) (r r' : Response) :
    AgreeUpToDraws (respond r s) (respond r' t) := { h with }

theorem AgreeUpToDraws.recordError (h : AgreeUpToDraws s t) (code : BitVec 3) :
    AgreeUpToDraws (recordError code s) (recordError code t) :=
  { h with status := congrArg (·.withError code) h.status }

theorem AgreeUpToDraws.clearError (h : AgreeUpToDraws s t) : AgreeUpToDraws (clearError s) (clearError t) :=
  { h with status := congrArg Status.withoutError h.status }

theorem AgreeUpToDraws.invalidateSchedule (h : AgreeUpToDraws s t) :
    AgreeUpToDraws (invalidateSchedule s) (invalidateSchedule t) :=
  { h with
    status := congrArg Status.scheduleInvalid h.status
    rk := fun hv => by simp at hv }

theorem AgreeUpToDraws.accept (h : AgreeUpToDraws s t) (i : Instr) : AgreeUpToDraws (accept i s) (accept i t) :=
  { h with
    status := congrArg (·.withBusy true) h.status
    pend := rfl }

theorem AgreeUpToDraws.noOutput (h : AgreeUpToDraws s t) :
    AgreeUpToDraws (setOutputValid false s) (setOutputValid false t) :=
  { h with
    status := congrArg (·.withOutput false) h.status
    dout := fun ho => by simp at ho }

theorem AgreeUpToDraws.retire (h : AgreeUpToDraws s t) : AgreeUpToDraws (retire s) (retire t) :=
  { h with
    status := congrArg (·.withBusy false) h.status
    pend := rfl }

theorem AgreeUpToDraws.writeSchedule (h : AgreeUpToDraws s t) (d : Bool) (rk : Schedule) :
    AgreeUpToDraws (writeSchedule d rk s) (writeSchedule d rk t) :=
  { h with
    status := congrArg (·.scheduleValid d) h.status
    rk := fun _ => rfl }

theorem AgreeUpToDraws.writeBlock (h : AgreeUpToDraws s t) (m : Matrix4) :
    AgreeUpToDraws (writeBlock m s) (writeBlock m t) where
  key := by simpa using h.key
  din := by simpa using h.din
  status := by simp [h.status]
  pend := by simpa using h.pend
  turns := by simpa using h.turns
  rk := by simpa using h.rk
  dout := by simp

/-- After reset KV and OV vouch for nothing. -/
theorem AgreeUpToDraws.platformReset (h : AgreeUpToDraws s t) : AgreeUpToDraws (platformReset s) (platformReset t) where
  key := rfl
  din := rfl
  status := rfl
  pend := rfl
  turns := h.turns
  rk := fun hv => by simp at hv
  dout := fun ho => by simp at ho

theorem AgreeUpToDraws.writeKeyWord (h : AgreeUpToDraws s t) (o : Nat) (v : BusWord) :
    AgreeUpToDraws (writeKeyWord o v s) (writeKeyWord o v t) := by
  cases hb : s.status.busy with
  | true => rw [writeKeyWord_busy hb, writeKeyWord_busy (h.status ▸ hb)]; exact h.recordError busyWrite
  | false =>
    rw [writeKeyWord_idle hb, writeKeyWord_idle (h.status ▸ hb), h.key]
    exact AgreeUpToDraws.invalidateSchedule { h with key := rfl }

theorem AgreeUpToDraws.writeDinWord (h : AgreeUpToDraws s t) (o : Nat) (v : BusWord) :
    AgreeUpToDraws (writeDinWord o v s) (writeDinWord o v t) := by
  cases hb : s.status.busy with
  | true => rw [writeDinWord_busy hb, writeDinWord_busy (h.status ▸ hb)]; exact h.recordError busyWrite
  | false =>
    rw [writeDinWord_idle hb, writeDinWord_idle (h.status ▸ hb), h.din]
    exact { h with din := rfl }

/-- The check of a command sees STATUS alone, and there the states agree. -/
theorem AgreeUpToDraws.issue (h : AgreeUpToDraws s t) (i : Instr) (check : Status → Option (BitVec 3)) {effects : State → State}
    (heffects : ∀ {u v}, AgreeUpToDraws u v → AgreeUpToDraws (effects u) (effects v)) :
    AgreeUpToDraws (issue i check effects s) (issue i check effects t) := by
  obtain ⟨hb, e⟩ | ⟨hb, code, hc, e⟩ | ⟨hb, hc, e⟩ := issue_cases i check effects s
  · rw [e, issue_busy (h.status ▸ hb)]; exact h.recordError busyWrite
  · rw [e, issue_refused (h.status ▸ hb) (h.status ▸ hc)]; exact h.clearError.recordError code
  · rw [e, issue_accepted (h.status ▸ hb) (h.status ▸ hc)]; exact heffects (h.clearError.accept i)

end

/-! ## The turns -/

/-- Both answer a next state, and the two agree. -/
def AgreeNext (r r' : Result) : Prop := ∃ s t, r = .next s ∧ r' = .next t ∧ AgreeUpToDraws s t

theorem AgreeUpToDraws.next {s t : State} (h : AgreeUpToDraws s t) : AgreeNext (.next s) (.next t) := ⟨s, t, rfl, rfl, h⟩

section
variable {s t : State}

theorem AgreeUpToDraws.exec (h : AgreeUpToDraws s t) (i : Instr) : AgreeNext (exec i s) (exec i t) := by
  cases i with
  | keyexpE => exact (h.issue _ _ .invalidateSchedule).next
  | keyexpD => exact (h.issue _ _ .invalidateSchedule).next
  | enc => exact (h.issue _ _ .noOutput).next
  | dec => exact (h.issue _ _ .noOutput).next

theorem AgreeUpToDraws.cmdWrite (h : AgreeUpToDraws s t) (v : BusWord) : AgreeNext (cmdWrite v s) (cmdWrite v t) := by
  unfold Machine.cmdWrite
  rw [← h.status]
  split
  · exact (h.recordError busyWrite).next
  · split
    · exact (h.clearError.recordError illegalCmd).next
    · exact h.exec _

/-- A read answers the host, and may move the draw counter; it does no more. -/
theorem hostRead_eq_answer (o : Nat) (s : State) : ∃ r n, hostRead o s = .next { s with response := r, draws := n } := by
  unfold hostRead
  split
  · exact ⟨_, _, rfl⟩
  · split
    · exact ⟨_, s.draws, rfl⟩
    · exact ⟨_, s.draws, rfl⟩

theorem AgreeUpToDraws.hostRead (h : AgreeUpToDraws s t) (o : Nat) : AgreeNext (hostRead o s) (hostRead o t) := by
  obtain ⟨r, n, hs⟩ := hostRead_eq_answer o s
  obtain ⟨r', n', ht⟩ := hostRead_eq_answer o t
  exact ⟨_, _, hs, ht, { h with }⟩

theorem AgreeUpToDraws.hostWrite (h : AgreeUpToDraws s t) (o : Nat) (v : BusWord) :
    AgreeNext (hostWrite o v s) (hostWrite o v t) := by
  unfold Machine.hostWrite
  split
  · exact ((h.respond _ _).writeKeyWord _ _).next
  · exact ((h.respond _ _).writeDinWord _ _).next
  · exact (h.respond _ _).cmdWrite v
  · exact (h.respond _ _).next
  · exact (h.respond _ _).next
  · exact (h.respond _ _).next
  · exact (h.respond _ _).next

theorem AgreeUpToDraws.hostAccess (h : AgreeUpToDraws s t) (a : Access) : AgreeNext (hostAccess a s) (hostAccess a t) := by
  unfold Machine.hostAccess
  split
  · split
    · exact h.hostRead _
    · exact h.hostWrite _ _
  · exact (h.respond _ _).next

/-- A block command in flight has KV = 1 (R150), so the two states have one schedule. -/
theorem AgreeUpToDraws.rk_of_block (h : AgreeUpToDraws s t) (hinv : CoreInv s)
    (hp : s.pend = some .enc ∨ s.pend = some .dec) : s.rk = t.rk := by
  have hneed := hinv.pendingHasItsSchedule
  unfold PendingHasItsSchedule at hneed
  rcases hp with hp | hp <;> (rw [hp] at hneed; exact h.rk hneed.1)

theorem AgreeUpToDraws.completion (h : AgreeUpToDraws s t) (hinv : CoreInv s) {i : Instr} (hp : s.pend = some i) :
    AgreeUpToDraws (completion i s) (completion i t) := by
  cases i with
  | keyexpE => simpa only [Machine.completion, completeKeyexpE, h.key] using (h.writeSchedule _ _).retire
  | keyexpD => simpa only [Machine.completion, completeKeyexpD, h.key] using (h.writeSchedule _ _).retire
  | enc =>
    simpa only [Machine.completion, completeEnc, h.din, h.rk_of_block hinv (.inl hp)] using (h.writeBlock _).retire
  | dec =>
    simpa only [Machine.completion, completeDec, h.din, h.rk_of_block hinv (.inr hp)] using (h.writeBlock _).retire

theorem AgreeUpToDraws.engineTurn (h : AgreeUpToDraws s t) (hinv : CoreInv s) :
    AgreeNext (engineTurn s) (engineTurn t) := by
  cases hb : s.status.busy with
  | false => rw [engineTurn_idle hb, engineTurn_idle (h.status ▸ hb)]; exact h.next
  | true =>
    obtain ⟨i, hp⟩ := Option.ne_none_iff_exists'.mp (hinv.pend_ne_none hb)
    rw [engineTurn_busy hb hp, engineTurn_busy (h.status ▸ hb) (h.pend ▸ hp)]
    exact (h.completion hinv hp).next

theorem AgreeUpToDraws.takeTurn (h : AgreeUpToDraws s t) (hinv : CoreInv s) (u : Turn) :
    AgreeNext (takeTurn u s) (takeTurn u t) := by
  cases u with
  | host a => exact h.hostAccess a
  | engine => exact h.engineTurn hinv
  | reset => exact h.platformReset.next

theorem AgreeUpToDraws.step (h : AgreeUpToDraws s t) (hinv : CoreInv s) : AgreeNext (step s) (step t) := by
  unfold Machine.step nextTurn
  rw [← h.turns]
  split
  · exact h.engineTurn hinv
  · exact (h.withTurns _).takeTurn hinv.congr _

end

/-- Settles O37: the two states take the same turn, and each operation of a turn keeps the agreement. -/
theorem drawsNeverReachAVouchedResult : Obligations.DrawsNeverReachAVouchedResult := by
  intro s t s' hinv _ hagree hstep
  obtain ⟨u, u', hu, hu', hagree'⟩ := hagree.step hinv
  obtain rfl := Host.Outcome.next.inj (hu.symm.trans hstep)
  exact ⟨u', hu', hagree'⟩

end Sys2Proof.Machine
end

section
/-!
PROOFS. Command words and their fields: decode and encode are inverse to each other (O2), and the legal words are those whose
fields are well-formed (R74).
-/

namespace Sys2Proof

/-! ## Words -/

theorem decode_encode (i : Instr) : decode (encode i) = some i := by cases i <;> rfl

theorem eq_encode_of_decode {w : BusWord} {i : Instr} (h : decode w = some i) : w = encode i := by
  unfold decode at h
  split_ifs at h with hkeyexpE hkeyexpD henc hdec
  · obtain rfl := Option.some.inj h; exact hkeyexpE
  · obtain rfl := Option.some.inj h; exact hkeyexpD
  · obtain rfl := Option.some.inj h; exact henc
  · obtain rfl := Option.some.inj h; exact hdec

theorem decode_eq_some_iff {w : BusWord} {i : Instr} : decode w = some i ↔ w = encode i :=
  ⟨eq_encode_of_decode, fun h => h ▸ decode_encode i⟩

theorem decodeBytes_encodeBytes_append (i : Instr) (rest : List Byte) : decodeBytes (encodeBytes i ++ rest) = some (i, rest) := by
  simp [encodeBytes, decodeBytes, Machine.busWordOf_lanes, decode_encode]

/-! ## Fields -/

/-- Every command's fields are well-formed, and the encoder lays them out as the decoder splits them. -/
theorem encode_fields (i : Instr) : splitFields (encode i) = i.fields ∧ i.wellFormed = true := by
  cases i with
  | keyexpE => exact Laws.EncodesLegally.keyexpE
  | keyexpD => exact Laws.EncodesLegally.keyexpD
  | enc => exact Laws.EncodesLegally.enc
  | dec => exact Laws.EncodesLegally.dec

/-- The three lines of R74. -/
theorem CmdFields.wellFormed_iff (f : CmdFields) : f.wellFormed = true ↔
    f.op ≠ 0b00#2 ∧ ¬((f.op = 0b10#2 ∨ f.op = 0b11#2) ∧ f.d = true) ∧ f.rsv = 0#29 := by
  cases hd : f.d <;> simp [wellFormed, opLegal, modeLegal, reservedZero, hd, and_assoc]

theorem op_cases : ∀ op : BitVec 2, op = 0b00#2 ∨ op = 0b01#2 ∨ op = 0b10#2 ∨ op = 0b11#2 := by decide

/-- Well-formed fields are a command's: OP = 0b01 is a KEYEXP in either mode, and ENC and DEC have D = 0 (R73). -/
theorem CmdFields.wellFormed_iff_exists (f : CmdFields) : f.wellFormed = true ↔ ∃ i : Instr, i.fields = f := by
  constructor
  · intro h
    obtain ⟨hop, hmode, hrsv⟩ := f.wellFormed_iff.mp h
    obtain ⟨op, d, rsv⟩ := f
    obtain rfl : rsv = 0#29 := hrsv
    obtain rfl | rfl | rfl | rfl := op_cases op
    · exact absurd rfl hop
    · cases d with
      | false => exact ⟨.keyexpE, rfl⟩
      | true => exact ⟨.keyexpD, rfl⟩
    · obtain rfl : d = false := by simpa using hmode
      exact ⟨.enc, rfl⟩
    · obtain rfl : d = false := by simpa using hmode
      exact ⟨.dec, rfl⟩
  · rintro ⟨i, rfl⟩
    exact (encode_fields i).2

/-- The three fields are the whole word (R71). -/
theorem joinFields_splitFields (w : BusWord) : joinFields (splitFields w) = w := by
  refine BitVec.eq_of_getLsbD_eq fun k hk => ?_
  simp only [joinFields, splitFields, BitVec.getLsbD_append, BitVec.getLsbD_extractLsb', BitVec.getLsbD_ofBool]
  by_cases hop : k < 2
  · simp [hop]
  · by_cases hd : k = 2
    · simp [hd]
    · have h1 : ¬(k - 2 < 1) := by omega
      have h29 : k - 2 - 1 < 29 := by omega
      have h3 : 3 + (k - 2 - 1) = k := by omega
      simp [hop, h1, h29, h3]

/-- The legal words are those with well-formed fields (R74, R75). -/
theorem exists_decode_iff (w : BusWord) : (∃ i, decode w = some i) ↔ (splitFields w).wellFormed = true := by
  rw [CmdFields.wellFormed_iff_exists]
  refine exists_congr fun i => ⟨fun h => ?_, fun h => ?_⟩
  · rw [eq_encode_of_decode h, (encode_fields i).1]
  · rw [← joinFields_splitFields w, ← h]
    exact decode_encode i

theorem decode_eq_none_iff_not_wellFormed (w : BusWord) : decode w = none ↔ ¬(splitFields w).wellFormed = true := by
  rw [← exists_decode_iff, Option.eq_none_iff_forall_ne_some, not_exists]

/-- Settles O2: the four words are the encodings, and the fields go through both ways. -/
theorem decodeAndEncodeAgree : Obligations.DecodeAndEncodeAgree :=
  ⟨fun _ _ => decode_eq_some_iff, fun i => (encode_fields i).symm, CmdFields.wellFormed_iff_exists,
    decodeBytes_encodeBytes_append⟩

end Sys2Proof
end

section
/-!
PROOFS. The illegal words, field by field, and their refusal (O3).
-/

namespace Sys2Proof.Machine

open Sys2Proof

/-- A CMD write of an illegal word while BUSY = 0 is refused with ILLEGAL_CMD (R150). -/
theorem hostAccess_cmd_illegal {s : State} {w : BusWord} (hb : s.status.busy = false) (hw : decode w = none) :
    hostAccess (cmdAccess w) s = .next (recordError illegalCmd (clearError (respond .done s))) := by
  simp [hostAccess_cmdAccess, cmdWrite, hb, hw, refuseIllegal_eq]

/-- Settles O3: the illegal words are those that break a line of R74. -/
theorem illegalWordsAreRefused : Obligations.IllegalWordsAreRefused := by
  refine ⟨fun w => ?fields, fun s w hb hw => hostAccess_cmd_illegal hb hw⟩
  rw [decode_eq_none_iff_not_wellFormed, CmdFields.wellFormed_iff, not_and_or, not_and_or, not_not, not_not]
  rfl

end Sys2Proof.Machine
end

section
/-!
PROOFS. What a step is (O4, O5), and the turn that is a reset (O7).
-/

namespace Sys2Proof.Machine

open Sys2Proof

theorem step_of_turns_cons {s : State} {t : Turn} {rest : List Turn} (h : s.turns = t :: rest) :
    step s = takeTurn t { s with turns := rest } := by
  simp only [step, nextTurn, h]

theorem step_of_turns_nil {s : State} (h : s.turns = []) : step s = engineTurn s := by
  simp only [step, nextTurn, h]

/-- Settles O5: the head of the list is the turn that is taken. -/
theorem stepTakesTheNextTurn : Obligations.StepTakesTheNextTurn :=
  ⟨fun _ _ _ => step_of_turns_cons, fun _ _ => step_of_turns_cons, fun _ _ => step_of_turns_cons, fun _ => step_of_turns_nil⟩

/-- The CMD write of a command's word is `exec` of the command, which drops it too while BUSY = 1 (R56). -/
theorem cmdWrite_of_decode {w : BusWord} {i : Instr} (hw : decode w = some i) (s : State) : cmdWrite w s = exec i s := by
  cases hb : s.status.busy with
  | true => simp [cmdWrite, hb, exec_busy i hb, dropWrite_eq]
  | false => simp [cmdWrite, hb, hw]

/-- Settles O4: the turn is a CMD write, and its word is the command's. -/
theorem stepRunsTheDecodedCommand : Obligations.StepRunsTheDecodedCommand := by
  intro s rest w i hturns hw
  rw [step_of_turns_cons hturns, takeTurn, hostAccess_cmdAccess, cmdWrite_of_decode hw]
  rfl

/-- The bytes that a reset leaves unspecified are draws from the counter on (R36, R225). -/
theorem unspecifiedBytesDrawn_platformReset (s : State) :
    UnspecifiedBytesDrawn s.draws (platformReset s).draws (platformReset s) :=
  unspecifiedBytesDrawn_resetFrom s.draws

/-- Settles O7: the turn is `platformReset`, and its fields are the reset values. -/
theorem platformResetAbandonsEverything : Obligations.PlatformResetAbandonsEverything := by
  intro s rest hturns
  refine ⟨_, step_of_turns_cons hturns, fun k => ?_, fun k => ?_, unspecifiedBytesDrawn_platformReset _, ?_, rfl, rfl, rfl, rfl⟩
  · exact Vector.getElem_replicate k.isLt
  · exact Vector.getElem_replicate k.isLt
  · exact (by decide : Status.reset.word = 0#32)

end Sys2Proof.Machine
end

section
/-!
PROOFS. The numbering of the draws (O38): a step takes its draws from the counter on and moves the counter past them.
-/

namespace Sys2Proof.Machine

open Sys2Proof

/-- Only a read that draws and a reset move the counter, and they move it on. -/
theorem Effect.draws_le {s t : State} (he : Effect s t) : s.draws ≤ t.draws := by
  cases he with
  | drawn => exact Nat.le_add_right _ _
  | reset => exact Nat.le_add_right _ _
  | _ => simp

/-- An access that draws is one that the core takes (R53). -/
theorem offset_aligned_of_draws {a : Access} {s t : State} (h : hostAccess a s = .next t) (hne : t.draws ≠ s.draws) :
    a.offset.val % 4 = 0 := by
  by_contra halign
  rw [hostAccess_illegal (Access.legal_eq_false (.inr halign))] at h
  obtain rfl := Host.Outcome.next.inj h
  exact hne rfl

/-- A step that moves the counter is a reset, or an aligned read of DOUT or RK while BUSY = 1. -/
theorem step_of_draws_ne {s t : State} (h : step s = .next t) (hne : t.draws ≠ s.draws) :
    (∃ rest, s.turns = .reset :: rest) ∨
    (s.status.busy = true ∧ ∃ (o : Fin 512) (rest : List Turn), s.turns = .host ⟨.read, o, 32⟩ :: rest ∧
      o.val % 4 = 0 ∧ (regionOf o.val = .dout ∨ regionOf o.val = .rk)) := by
  refine ((step_draws h).resolve_left hne).imp id fun ⟨hb, o, rest, hturns, hr⟩ => ⟨hb, o, rest, hturns, ?_, hr⟩
  rw [step_of_turns_cons hturns] at h
  exact offset_aligned_of_draws (a := ⟨.read, o, 32⟩) h hne

theorem readAt_val (o : Fin 512) : readAt o.val = ⟨.read, o, 32⟩ := by simp [readAt, windowOffset]

/-- Settles O38: the steps that draw, the four draws of a read, and the 272 of a reset. -/
theorem drawsAreNeverUsedTwice : Obligations.DrawsAreNeverUsedTwice := by
  refine ⟨fun s t h => ⟨(step_effect h).draws_le, step_of_draws_ne h⟩, fun s o rest hb hturns h4 hr => ?read,
    fun s rest hturns => ⟨_, step_of_turns_cons hturns, unspecifiedBytesDrawn_platformReset _⟩⟩
  have hdrawn : drawnWhileBusy (regionOf o.val) = true := by rcases hr with hr | hr <;> rw [hr] <;> rfl
  obtain ⟨d, n, hinj, hrange, hread⟩ :=
    hostAccess_read_draws (s := { s with turns := rest }) h4 o.isLt hb hdrawn
  rw [readAt_val] at hread
  exact ⟨_, d, (step_of_turns_cons hturns).trans hread, hinj, hrange, rfl⟩

end Sys2Proof.Machine
end

section
/-!
PROOFS. The issue of a command as a CMD write (O17), and the frames of issue (O22) and completion (O23).
-/

namespace Sys2Proof.Machine

open Sys2Proof

/-! ## Issue -/

/-- Everything that ENC and DEC can answer, with the checks of R150 in their order. -/
theorem exec_block_cases {i : Instr} {s t : State} (hi : i = .enc ∨ i = .dec) (h : exec i s = .next t) :
    (s.status.busy = true ∧ t = recordError busyWrite s) ∨
    (s.status.busy = false ∧ s.status.kv = false ∧ t = recordError noSchedule (clearError s)) ∨
    (s.status.busy = false ∧ s.status.kv = true ∧ (i = .enc ∧ s.status.kd = true ∨ i = .dec ∧ s.status.kd = false) ∧
      t = recordError modeMismatch (clearError s)) ∨
    (s.status.busy = false ∧ s.status.kv = true ∧ (i = .enc ∧ s.status.kd = false ∨ i = .dec ∧ s.status.kd = true) ∧
      t = setOutputValid false (accept i (clearError s))) := by
  have answer : ∀ {u}, exec i s = .next u → t = u := fun hu => (Host.Outcome.next.inj (hu.symm.trans h)).symm
  cases hb : s.status.busy with
  | true => exact .inl ⟨rfl, answer (exec_busy i hb)⟩
  | false =>
    cases hv : s.status.kv with
    | false => exact .inr (.inl ⟨rfl, rfl, answer (exec_block_noSchedule hi hb hv)⟩)
    | true =>
      by_cases hd : i = .enc ∧ s.status.kd = true ∨ i = .dec ∧ s.status.kd = false
      · exact .inr (.inr (.inl ⟨rfl, rfl, hd, answer (exec_block_modeMismatch hd hb hv)⟩))
      · have hmode : i = .enc ∧ s.status.kd = false ∨ i = .dec ∧ s.status.kd = true := by
          rcases hi with rfl | rfl <;> simpa using hd
        exact .inr (.inr (.inr ⟨rfl, rfl, hmode, answer (exec_block_accepted hmode hb hv)⟩))

/-- Everything that a KEYEXP can answer. -/
theorem exec_keyexp_cases {i : Instr} {s t : State} (hi : i = .keyexpE ∨ i = .keyexpD) (h : exec i s = .next t) :
    (s.status.busy = true ∧ t = recordError busyWrite s) ∨
    (s.status.busy = false ∧ t = invalidateSchedule (accept i (clearError s))) := by
  cases hb : s.status.busy with
  | true => exact .inl ⟨rfl, Host.Outcome.next.inj (h.symm.trans (exec_busy i hb))⟩
  | false => exact .inr ⟨rfl, Host.Outcome.next.inj (h.symm.trans (exec_keyexp hi hb))⟩

/-- A CMD write of a legal word is the command's issue, once the host is answered. -/
theorem hostAccess_cmd_of_decode {w : BusWord} {i : Instr} (hw : decode w = some i) (s : State) :
    hostAccess (cmdAccess w) s = exec i (respond .done s) := by
  rw [hostAccess_cmdAccess, cmdWrite_of_decode hw]

/-- Settles O17: the illegal word, KEYEXP, and ENC and DEC check by check. -/
theorem issueCommandChecksInOrder : Obligations.IssueCommandChecksInOrder := by
  intro s w hb
  cases hw : decode w with
  | none => exact hostAccess_cmd_illegal hb hw
  | some i =>
    rw [hostAccess_cmd_of_decode hw]
    cases i with
    | keyexpE => exact exec_keyexp (.inl rfl) hb
    | keyexpD => exact exec_keyexp (.inr rfl) hb
    | enc =>
      dsimp only
      split_ifs with hv hd
      · exact exec_block_noSchedule (.inl rfl) hb hv
      · exact exec_block_modeMismatch (.inl ⟨rfl, hd⟩) hb (by simpa using hv)
      · exact exec_block_accepted (.inl ⟨rfl, by simpa using hd⟩) hb (by simpa using hv)
    | dec =>
      dsimp only
      split_ifs with hv hd
      · exact exec_block_noSchedule (.inr rfl) hb hv
      · exact exec_block_modeMismatch (.inr ⟨rfl, hd⟩) hb (by simpa using hv)
      · exact exec_block_accepted (.inr ⟨rfl, by simpa using hd⟩) hb (by simpa using hv)

/-! ## The register map (R51) -/

/-- The offsets of each row of the map. -/
def Region.Contains (r : Region) (o : Nat) : Prop :=
  match r with
  | .key => o < 0x020
  | .din => 0x020 ≤ o ∧ o < 0x030
  | .dout => 0x030 ≤ o ∧ o < 0x040
  | .cmd => 0x040 ≤ o ∧ o < 0x044
  | .status => 0x044 ≤ o ∧ o < 0x048
  | .rk => 0x100 ≤ o ∧ o < 0x1F0
  | .unmapped => 0x048 ≤ o ∧ o < 0x100 ∨ 0x1F0 ≤ o

theorem contains_regionOf (o : Nat) : (regionOf o).Contains o := by
  unfold regionOf
  split_ifs <;> simp only [Region.Contains] <;> omega

theorem regionOf_eq_iff {o : Nat} {r : Region} : regionOf o = r ↔ r.Contains o := by
  refine ⟨fun h => h ▸ contains_regionOf o, fun h => ?_⟩
  cases r with
  | key => exact regionOf_key h
  | din => exact regionOf_din h.1 h.2
  | dout => exact regionOf_dout h.1 h.2
  | cmd => exact regionOf_cmd h.1 h.2
  | status => exact regionOf_status h.1 h.2
  | rk => exact regionOf_rk h.1 h.2
  | unmapped => exact regionOf_unmapped h

theorem regionOf_ne_status {x : Nat} (h : x < 0x044 ∨ 0x048 ≤ x) : regionOf x ≠ .status := fun hr => by
  obtain ⟨hlo, hhi⟩ : 0x044 ≤ x ∧ x < 0x048 := regionOf_eq_iff.mp hr
  omega

/-- A byte of the window is one register's: it is as before where that register is. -/
theorem byteAt_congr_region {s t : State} {x : Nat} (hkey : regionOf x = .key → t.key = s.key := by simp)
    (hdin : regionOf x = .din → t.din = s.din := by simp) (hdout : regionOf x = .dout → t.dout = s.dout := by simp)
    (hrk : regionOf x = .rk → t.rk = s.rk := by simp)
    (hstatus : regionOf x = .status → t.status = s.status := by simp) : byteAt t x = byteAt s x := by
  unfold byteAt
  split <;> simp_all

/-! ## The frame of the issue -/

theorem exec_keyexp_ov {i : Instr} {s t : State} (hi : i = .keyexpE ∨ i = .keyexpD) (h : exec i s = .next t) :
    t.status.ov = s.status.ov := by
  obtain ⟨-, rfl⟩ | ⟨-, rfl⟩ := exec_keyexp_cases hi h <;> rfl

theorem exec_block_schedule {i : Instr} {s t : State} (hi : i = .enc ∨ i = .dec) (h : exec i s = .next t) :
    t.status.kv = s.status.kv ∧ t.status.kd = s.status.kd := by
  obtain ⟨-, rfl⟩ | ⟨-, -, rfl⟩ | ⟨-, -, -, rfl⟩ | ⟨-, -, -, rfl⟩ := exec_block_cases hi h <;> exact ⟨rfl, rfl⟩

theorem exec_busy_pend {i : Instr} {s t : State} (hb : s.status.busy = true) (h : exec i s = .next t) : t.pend = s.pend := by
  rw [exec_busy i hb] at h
  obtain rfl := Host.Outcome.next.inj h
  rfl

/-- Whether it is dropped, refused or accepted, a command's issue changes STATUS and PEND alone (R56, R151, R152). -/
theorem exec_frame {i : Instr} {s t : State} (h : exec i s = .next t) :
    ∃ f p, t = { s with status := f, pend := p } := by
  obtain ⟨-, rfl⟩ | ⟨-, code, rfl⟩ | ⟨-, effects, rfl | rfl, rfl⟩ := exec_cases h <;> exact ⟨_, _, rfl⟩

/-- Settles O22: every register but STATUS and PEND, and the flags of each command. -/
theorem commandIssueFrame : Obligations.CommandIssueFrame := by
  intro i s t h
  have hov := exec_keyexp_ov (h := h)
  have hschedule := exec_block_schedule (h := h)
  have hpend := fun hb => exec_busy_pend hb h
  obtain ⟨f, p, rfl⟩ := exec_frame h
  exact ⟨rfl, rfl, rfl, rfl, rfl, rfl, rfl, rfl, hov, hschedule, hpend,
    fun x hx => byteAt_congr (s := s) (t := { s with status := f, pend := p }) rfl rfl rfl rfl x (regionOf_ne_status hx)⟩

/-! ## The frame of the completion -/

theorem completion_keyexp_output {i : Instr} (hi : i = .keyexpE ∨ i = .keyexpD) (s : State) :
    (completion i s).st = s.st ∧ (completion i s).dout = s.dout ∧ (completion i s).status.ov = s.status.ov := by
  rcases hi with rfl | rfl <;> simp [completion_keyexpE, completion_keyexpD]

/-- Settles O23: a KEYEXP writes RK, a block command ST and DOUT, and each its flags. -/
theorem completionFrame : Obligations.CompletionFrame := by
  intro i s t hb hp h
  obtain rfl := eq_completion_of_engineTurn hb hp h
  refine ⟨completion_key i s, completion_din i s, completion_turns i s, completion_response i s, completion_draws i s,
    completion_err i s, completion_ecode i s, fun hi => ?keyexp, fun hi => ?block⟩
  case keyexp =>
    obtain ⟨hst, hdout, hov⟩ := completion_keyexp_output hi s
    refine ⟨hst, hdout, hov, fun x hx => byteAt_congr_region (hdout := fun _ => hdout) (hrk := fun hr => ?_)
      (hstatus := fun hr => ?_)⟩
    · obtain ⟨hlo, hhi⟩ : 0x100 ≤ x ∧ x < 0x1F0 := regionOf_eq_iff.mp hr
      omega
    · exact absurd hr (regionOf_ne_status (by omega))
  case block =>
    obtain ⟨hrk, hkv, hkd⟩ := completion_block_schedule hi s
    refine ⟨hrk, hkv, hkd, fun x hx => byteAt_congr_region (hdout := fun hr => ?_) (hrk := fun _ => hrk)
      (hstatus := fun hr => ?_)⟩
    · obtain ⟨hlo, hhi⟩ : 0x030 ≤ x ∧ x < 0x040 := regionOf_eq_iff.mp hr
      omega
    · exact absurd hr (regionOf_ne_status (by omega))

end Sys2Proof.Machine
end

section
/-!
PROOFS. Host accesses, one by one: STATUS (O9), writes while BUSY = 1 (O13), the frame of a write (O12), and what each access is
answered and records, in the order of R203 (O16).
-/

namespace Sys2Proof.Machine

open Sys2Proof

/-! ## The word of STATUS (R27) -/

theorem Status.word_getLsbD (f : Status) : f.word.getLsbD 0 = f.busy ∧ f.word.getLsbD 1 = f.kv ∧ f.word.getLsbD 2 = f.kd ∧
    f.word.getLsbD 3 = f.ov ∧ f.word.getLsbD 4 = f.err := by
  simp only [Status.word, BitVec.getLsbD_append]
  simp

/-- From bit 5 on the word is ECODE and then zeros. -/
theorem Status.word_getLsbD_add_five (f : Status) (k : Nat) : f.word.getLsbD (5 + k) = f.ecode.getLsbD k := by
  have hlow : ∀ j, ¬1 + j < 1 := by omega
  have hk : 5 + k = 1 + (1 + (1 + (1 + (1 + k)))) := by omega
  simp only [Status.word, BitVec.getLsbD_append, hk, hlow, if_false, Nat.add_sub_cancel_left, BitVec.getLsbD_zero]
  split_ifs with h
  · rfl
  · exact (BitVec.getLsbD_of_ge f.ecode k (by omega)).symm

theorem Status.word_ecode (f : Status) : f.word.extractLsb' 5 3 = f.ecode := by
  refine BitVec.eq_of_getLsbD_eq fun k hk => ?_
  rw [BitVec.getLsbD_extractLsb', Status.word_getLsbD_add_five]
  simp [hk]

theorem Status.word_reserved (f : Status) : f.word.extractLsb' 8 24 = 0#24 := by
  refine BitVec.eq_of_getLsbD_eq fun k hk => ?_
  rw [BitVec.getLsbD_extractLsb', show 8 + k = 5 + (3 + k) by omega, Status.word_getLsbD_add_five,
    BitVec.getLsbD_of_ge f.ecode (3 + k) (by omega)]
  simp

theorem hostAccess_write_status (s : State) (v : BusWord) :
    hostAccess (writeAt 0x044 v) s = .next (respond .done s) :=
  readOnlyWritesAreIgnored s 0x044 v (by decide) (.inr (.inl rfl))

/-- Settles O9: the fields bit by bit, then the read, the ignored write and the reset value. -/
theorem statusWordFields : Obligations.StatusWordFields := by
  refine ⟨fun f => ?fields, hostAccess_read_status, hostAccess_write_status, by decide⟩
  obtain ⟨hbusy, hkv, hkd, hov, herr⟩ := f.word_getLsbD
  exact ⟨hbusy, hkv, hkd, hov, herr, f.word_ecode, f.word_reserved⟩

/-! ## Writes -/

/-- Settles O13: the three registers that take writes drop them while BUSY = 1. -/
theorem busyWritesAreDropped : Obligations.BusyWritesAreDropped := by
  intro s o v hb h4 ho
  have hregion : regionOf o = .key ∨ regionOf o = .din ∨ regionOf o = .cmd := by
    rcases ho with ho | rfl
    · by_cases hkey : o < 0x020
      · exact .inl (regionOf_key hkey)
      · exact .inr (.inl (regionOf_din (by omega) ho))
    · exact .inr (.inr (regionOf_cmd (by decide) (by decide)))
  exact (hostAccess_writeAt h4 (by omega) v s).trans (hostWrite_busy hb hregion v)

theorem writeAt_val (o : Fin 512) (v : BusWord) : writeAt o.val v = ⟨.write v, o, 32⟩ := by simp [writeAt, windowOffset]

theorem writeAt_inj {o o' : Nat} {v v' : BusWord} (h : o < 512) (h' : o' < 512) (he : writeAt o v = writeAt o' v') :
    o = o' ∧ v = v' := by
  simp only [writeAt, Access.mk.injEq, AccessKind.write.injEq] at he
  obtain ⟨hv, hoff, -⟩ := he
  exact ⟨by rw [← windowOffset_val h, hoff, windowOffset_val h'], hv⟩

/-- Everything a word write can do, but to CMD: nothing, a dropped write, and a word stored in KEY or in DIN. -/
theorem hostAccess_write_cases {s t : State} {o : Nat} {v : BusWord} (h : o < 512) (hcmd : regionOf o ≠ .cmd)
    (hwrite : hostAccess (writeAt o v) s = .next t) :
    (∃ r, t = respond r s) ∨
    (s.status.busy = true ∧ t = recordError busyWrite (respond .done s)) ∨
    (s.status.busy = false ∧ o < 0x020 ∧ t = invalidateSchedule { respond .done s with key := putWord s.key o v }) ∨
    (s.status.busy = false ∧ ∃ k < 16, o = 0x020 + k ∧ t = { respond .done s with din := putWord s.din k v }) := by
  obtain ht | ⟨-, ha, -⟩ | hdrop | ⟨hb, j, w, ha, ht⟩ | ⟨hb, j, w, ha, ht⟩ | ⟨-, w, ha, -⟩ := hostAccess_cases hwrite
  · exact .inl ht
  · simp [writeAt] at ha
  · exact .inr (.inl hdrop)
  · obtain ⟨rfl, rfl⟩ := writeAt_inj h (by omega) ha
    exact .inr (.inr (.inl ⟨hb, by omega, ht⟩))
  · obtain ⟨rfl, rfl⟩ := writeAt_inj h (by omega) ha
    exact .inr (.inr (.inr ⟨hb, 4 * j.val, by omega, rfl, ht⟩))
  · obtain ⟨rfl, rfl⟩ := writeAt_inj h (by decide) ha
    exact absurd (regionOf_cmd (by decide) (by decide)) hcmd

/-- The byte at an offset outside the written word of KEY is as before. -/
theorem byteAt_writeKey_outside {s : State} {o x : Nat} {v : BusWord} (hx : x < o ∨ o + 4 ≤ x) (hstatus : regionOf x ≠ .status) :
    byteAt (invalidateSchedule { respond .done s with key := putWord s.key o v }) x = byteAt s x := by
  by_cases hkey : x < 0x020
  · rw [byteAt_key hkey, byteAt_key hkey, invalidateSchedule_key, putWord_getElem_outside s.key o v x hkey hx]
  · refine byteAt_congr_region (hkey := fun hr => ?_) (hstatus := fun hr => absurd hr hstatus)
    exact absurd (regionOf_eq_iff.mp hr) hkey

/-- The byte at an offset outside the written word of DIN is as before. -/
theorem byteAt_writeDin_outside {s : State} {k x : Nat} {v : BusWord} (hx : x < 0x020 + k ∨ 0x020 + k + 4 ≤ x) :
    byteAt { respond .done s with din := putWord s.din k v } x = byteAt s x := by
  by_cases hdin : 0x020 ≤ x ∧ x < 0x030
  · obtain ⟨j, rfl⟩ : ∃ j, x = 0x020 + j := ⟨x - 0x020, by omega⟩
    rw [byteAt_din (by omega), byteAt_din (by omega), putWord_getElem_outside s.din k v j (by omega) (by omega)]
  · refine byteAt_congr_region (hdin := fun hr => ?_)
    exact absurd (regionOf_eq_iff.mp hr) hdin

/-- Settles O12: one frame for each of the four things that a write can do. -/
theorem hostWriteFrame : Obligations.HostWriteFrame := by
  intro s t o v _ ho hcmd hwrite
  obtain ⟨r, rfl⟩ | ⟨hb, rfl⟩ | ⟨hb, hkey, rfl⟩ | ⟨hb, k, hk, rfl, rfl⟩ := hostAccess_write_cases ho hcmd hwrite
  · exact ⟨rfl, rfl, rfl, rfl, rfl, rfl, fun _ => ⟨rfl, rfl⟩, fun _ => ⟨rfl, rfl⟩, fun x _ _ => byteAt_respond r s x,
      fun _ x _ => byteAt_respond r s x⟩
  · have hbytes : ∀ x, x < 0x044 ∨ 0x048 ≤ x → byteAt (recordError busyWrite (respond .done s)) x = byteAt s x :=
      fun x hx => byteAt_congr (by simp) (by simp) (by simp) (by simp) x (regionOf_ne_status hx)
    exact ⟨rfl, rfl, rfl, rfl, rfl, rfl, fun hidle => by simp [hb] at hidle, fun _ => ⟨rfl, rfl⟩,
      fun x _ hx => hbytes x hx, fun _ x hx => hbytes x hx⟩
  · exact ⟨by simp, by simp, by simp, by simp, by simp, by simp, fun _ => by simp, fun h => by simp [hb] at h; omega,
      fun x hx hs => byteAt_writeKey_outside hx (regionOf_ne_status hs), fun h => by simp [hb] at h; omega⟩
  · exact ⟨rfl, rfl, rfl, rfl, rfl, rfl, fun _ => ⟨rfl, rfl⟩, fun _ => ⟨rfl, rfl⟩,
      fun x hx _ => byteAt_writeDin_outside hx, fun h => by simp [hb] at h; omega⟩

/-! ## Reads -/

/-- A byte stands at every offset but the unmapped ones (R51). -/
theorem exists_byteAt {o : Nat} (h : regionOf o ≠ .unmapped) (s : State) : ∃ b, byteAt s o = some b := by
  have hmapped : ¬(0x048 ≤ o ∧ o < 0x100 ∨ 0x1F0 ≤ o) := mt regionOf_unmapped h
  by_cases hkey : o < 0x020
  · exact ⟨_, byteAt_key hkey⟩
  by_cases hdin : o < 0x030
  · obtain ⟨k, rfl⟩ : ∃ k, o = 0x020 + k := ⟨o - 0x020, by omega⟩
    exact ⟨_, byteAt_din (by omega)⟩
  by_cases hdout : o < 0x040
  · obtain ⟨k, rfl⟩ : ∃ k, o = 0x030 + k := ⟨o - 0x030, by omega⟩
    exact ⟨_, byteAt_dout (by omega)⟩
  by_cases hcmd : o < 0x044
  · obtain ⟨k, rfl⟩ : ∃ k, o = 0x040 + k := ⟨o - 0x040, by omega⟩
    exact ⟨_, byteAt_cmd (by omega)⟩
  by_cases hstatus : o < 0x048
  · obtain ⟨k, rfl⟩ : ∃ k, o = 0x044 + k := ⟨o - 0x044, by omega⟩
    exact ⟨_, byteAt_status (by omega)⟩
  · have hrk := byteAt_rk (s := s) ⟨(o - 0x100) / 16, by omega⟩ ⟨(o - 0x100) % 16 / 4, by omega⟩ ⟨(o - 0x100) % 4, by omega⟩
    have ho : 0x100 + 16 * ((o - 0x100) / 16) + 4 * ((o - 0x100) % 16 / 4) + (o - 0x100) % 4 = o := by omega
    exact ⟨_, ho ▸ hrk⟩

/-- A word stands at every aligned offset that is mapped: the bounds of the map are multiples of 4. -/
theorem exists_wordAtOffset {o : Nat} (h4 : o % 4 = 0) (h : regionOf o ≠ .unmapped) (s : State) :
    ∃ v, wordAtOffset s o = some v := by
  have hmapped : ¬(0x048 ≤ o ∧ o < 0x100 ∨ 0x1F0 ≤ o) := mt regionOf_unmapped h
  have hbyte : ∀ i < 4, ∃ b, byteAt s (o + i) = some b := by
    intro i hi
    refine exists_byteAt (fun hr => ?_) s
    have hunmapped : 0x048 ≤ o + i ∧ o + i < 0x100 ∨ 0x1F0 ≤ o + i := regionOf_eq_iff.mp hr
    omega
  obtain ⟨b0, h0⟩ := hbyte 0 (by decide)
  obtain ⟨b1, h1⟩ := hbyte 1 (by decide)
  obtain ⟨b2, h2⟩ := hbyte 2 (by decide)
  obtain ⟨b3, h3⟩ := hbyte 3 (by decide)
  rw [Nat.add_zero] at h0
  exact ⟨busWordOf b0 b1 b2 b3, by simp [wordAtOffset, h0, h1, h2, h3]⟩

/-- An aligned read of a mapped word answers data, and records nothing. -/
theorem hostRead_answers_data {o : Nat} (h4 : o % 4 = 0) (h : regionOf o ≠ .unmapped) (s : State) :
    ∃ t, hostRead o s = .next t ∧ t.status = s.status ∧ ∃ v, t.response = .data v := by
  obtain ⟨v, hv⟩ := exists_wordAtOffset h4 h s
  unfold hostRead
  split
  · exact ⟨_, rfl, rfl, _, rfl⟩
  · exact ⟨respond (.data v) s, by simp [hv], rfl, v, rfl⟩

/-! ## The outcome of an access (R203) -/

/-- What a CMD write made while BUSY = 0 records: ILLEGAL_CMD, NO_SCHEDULE, MODE_MISMATCH, or the acceptance (R150). -/
theorem hostAccess_cmd_outcome {s : State} (hb : s.status.busy = false) (w : BusWord) :
    ∃ t, hostAccess (cmdAccess w) s = .next t ∧ t.response = .done ∧
      (decode w = none → t.status.err = true ∧ t.status.ecode = 1) ∧
      ∀ i, decode w = some i →
        if (i = .enc ∨ i = .dec) ∧ s.status.kv = false then t.status.err = true ∧ t.status.ecode = 2
        else if (i = .enc ∧ s.status.kd = true) ∨ (i = .dec ∧ s.status.kd = false) then
          t.status.err = true ∧ t.status.ecode = 3
        else t.status.err = false ∧ t.status.ecode = 0 ∧ t.pend = some i := by
  cases hw : decode w with
  | none => exact ⟨_, hostAccess_cmd_illegal hb hw, rfl, fun _ => ⟨rfl, rfl⟩, fun i hi => by cases hi⟩
  | some i =>
    rw [hostAccess_cmd_of_decode hw]
    simp only [reduceCtorEq, false_implies, true_and, Option.some.injEq, forall_eq']
    by_cases hblock : i = .enc ∨ i = .dec
    · split_ifs with hv hd
      · exact ⟨_, exec_block_noSchedule (s := respond .done s) hblock hb hv.2, rfl, rfl, rfl⟩
      · exact ⟨_, exec_block_modeMismatch (s := respond .done s) hd hb (by simpa [hblock] using hv), rfl, rfl, rfl⟩
      · have hmode : i = .enc ∧ s.status.kd = false ∨ i = .dec ∧ s.status.kd = true := by
          rcases hblock with rfl | rfl <;> simpa using hd
        exact ⟨_, exec_block_accepted (s := respond .done s) hmode hb (by simpa [hblock] using hv), rfl, rfl, rfl, rfl⟩
    · have hkeyexp : i = .keyexpE ∨ i = .keyexpD := by cases i <;> simp at hblock ⊢
      obtain ⟨henc, hdec⟩ := not_or.mp hblock
      refine ⟨_, exec_keyexp (s := respond .done s) hkeyexp hb, rfl, ?_⟩
      rw [if_neg (by simp [henc, hdec]), if_neg (by simp [henc, hdec])]
      exact ⟨rfl, rfl, rfl⟩

/-- A word write to KEY or DIN while BUSY = 0 is answered normally and records nothing (R54). -/
theorem hostAccess_write_data_outcome {s : State} {o : Nat} (h4 : o % 4 = 0) (ho : o < 0x030) (hb : s.status.busy = false)
    (v : BusWord) : ∃ t, hostAccess (writeAt o v) s = .next t ∧ t.response = .done ∧
      t.status.err = s.status.err ∧ t.status.ecode = s.status.ecode := by
  by_cases hkey : o < 0x020
  · exact ⟨_, hostAccess_write_key h4 hkey hb v, by simp, by simp, by simp⟩
  · obtain ⟨k, rfl⟩ : ∃ k, o = 0x020 + k := ⟨o - 0x020, by omega⟩
    exact ⟨_, hostAccess_write_din (by omega) (by omega) hb v, rfl, rfl, rfl⟩

/-- Settles O16: the branches of R203 in their order, each with the access that takes it. -/
theorem hostAccessOutcomesInPriorityOrder : Obligations.HostAccessOutcomesInPriorityOrder := by
  refine ⟨fun s a => ?outcome, fun s hb _ => ⟨_, hostAccess_cmd_illegal hb (by decide), rfl, rfl⟩, fun s t => engineTurn_error⟩
  by_cases hbad : a.width ≠ 32 ∨ a.offset.val % 4 ≠ 0
  · refine ⟨_, hostAccess_illegal (Access.legal_eq_false hbad) s, ?_⟩
    rw [if_pos hbad]
    rfl
  by_cases hunmapped : (0x048 ≤ a.offset.val ∧ a.offset.val < 0x100) ∨ 0x1F0 ≤ a.offset.val
  · refine ⟨_, hostAccess_unmapped (regionOf_unmapped hunmapped) s, ?_⟩
    rw [if_neg hbad, if_pos hunmapped]
    rfl
  simp only [if_neg hbad, if_neg hunmapped]
  obtain ⟨kind, offset, width⟩ := a
  obtain ⟨rfl, h4⟩ : width = 32 ∧ offset.val % 4 = 0 := by simpa using hbad
  dsimp only at *
  cases kind with
  | read =>
    have hmapped : regionOf offset.val ≠ .unmapped := mt regionOf_eq_iff.mp hunmapped
    obtain ⟨t, ht, hdata⟩ := hostRead_answers_data h4 hmapped s
    exact ⟨t, readAt_val offset ▸ (hostAccess_readAt h4 offset.isLt s).trans ht, hdata⟩
  | write v =>
    have haccess : hostAccess ⟨.write v, offset, 32⟩ s = hostAccess (writeAt offset.val v) s := by rw [writeAt_val]
    by_cases hreadOnly : (0x030 ≤ offset.val ∧ offset.val < 0x040) ∨ offset.val = 0x044 ∨ 0x100 ≤ offset.val
    · refine ⟨_, haccess.trans (readOnlyWritesAreIgnored s _ v h4 (by omega)), rfl, ?_⟩
      rw [if_pos hreadOnly]
    by_cases hb : s.status.busy = true
    · refine ⟨_, haccess.trans (busyWritesAreDropped s _ v hb h4 (by omega)), rfl, ?_⟩
      rw [if_neg hreadOnly, if_pos hb]
    have hidle : s.status.busy = false := by simpa using hb
    by_cases hdata : offset.val < 0x030
    · obtain ⟨t, ht, hdone, herror⟩ := hostAccess_write_data_outcome h4 hdata hidle v
      refine ⟨t, haccess.trans ht, hdone, ?_⟩
      rwa [if_neg hreadOnly, if_neg hb, if_pos hdata]
    · have hcmd : offset.val = 0x040 := by omega
      obtain ⟨t, ht, hdone, hillegal, hlegal⟩ := hostAccess_cmd_outcome hidle v
      refine ⟨t, haccess.trans (hcmd ▸ ht), hdone, ?_⟩
      rw [if_neg hreadOnly, if_neg hb, if_neg hdata]
      cases hw : decode v with
      | none => exact hillegal hw
      | some i => exact hlegal i hw

end Sys2Proof.Machine
end

section
/-!
PROOFS. Which steps change the flags of STATUS (O30 for KV and KD, O31 for OV), which change the data registers (O32), and what a
step with a command in flight leaves (O33). The engine's turn and a host access are said once each; a step is one of the two, or
a reset.
-/

namespace Sys2Proof.Machine

open Sys2Proof

/-! ## Steps by their turns -/

/-- What a step did beside a reset: the engine's turn, where no turn was left or the engine's was next, or a host access. -/
theorem step_cases_of_not_reset {s t : State} (h : step s = .next t) (hreset : ∀ rest, s.turns ≠ .reset :: rest) :
    ((s.turns = [] ∨ ∃ rest, s.turns = .engine :: rest) ∧ engineTurn (turnTaken s) = .next t) ∨
    (∃ a rest, s.turns = .host a :: rest ∧ hostAccess a (turnTaken s) = .next t) := by
  have htaken : ∀ {u rest}, s.turns = u :: rest → turnTaken s = { s with turns := rest } := fun hu => by simp [turnTaken, hu]
  obtain ⟨hturns, he⟩ | ⟨rest, hturns, he⟩ | ⟨a, rest, hturns, ha⟩ | ⟨rest, hturns, -⟩ := step_turn_cases h
  · have hsame : turnTaken s = s := by rw [turnTaken, hturns, List.tail_nil, ← hturns]
    exact .inl ⟨.inl hturns, by rwa [hsame]⟩
  · exact .inl ⟨.inr ⟨rest, hturns⟩, htaken hturns ▸ he⟩
  · exact .inr ⟨a, rest, hturns, htaken hturns ▸ ha⟩
  · exact absurd hturns (hreset rest)

/-! ## KV and KD -/

/-- A completed KEYEXP sets KV, and KD to its mode (R29). -/
theorem completion_keyexp_flags {i : Instr} (hi : i = .keyexpE ∨ i = .keyexpD) (s : State) :
    (completion i s).status.kv = true ∧ ((completion i s).status.kd = true ↔ i = .keyexpD) := by
  rcases hi with rfl | rfl <;> simp [completion_keyexpE, completion_keyexpD]

theorem keyexp_or_block (i : Instr) : (i = .keyexpE ∨ i = .keyexpD) ∨ (i = .enc ∨ i = .dec) := by cases i <;> simp

theorem engineTurn_schedule {s t : State} (h : engineTurn s = .next t) :
    (t.status.kv = s.status.kv ∧ t.status.kd = s.status.kd) ∨
    (s.status.busy = true ∧ (s.pend = some .keyexpE ∨ s.pend = some .keyexpD)) := by
  obtain ⟨-, rfl⟩ | ⟨hb, i, hp, rfl⟩ := engineTurn_cases h
  · exact .inl ⟨rfl, rfl⟩
  · obtain hi | hi := keyexp_or_block i
    · exact .inr ⟨hb, by simpa [hp] using hi⟩
    · exact .inl (completion_block_schedule hi s).2

theorem hostAccess_schedule {a : Access} {s t : State} (h : hostAccess a s = .next t) :
    (t.status.kv = s.status.kv ∧ t.status.kd = s.status.kd) ∨
    (s.status.busy = false ∧ ∃ w, a = cmdAccess w ∧ (decode w = some .keyexpE ∨ decode w = some .keyexpD)) ∨
    (s.status.busy = false ∧ ∃ (j : Fin 8) (v : BusWord), a = writeAt (4 * j.val) v) := by
  obtain ⟨r, rfl⟩ | ⟨-, -, -, rfl⟩ | ⟨-, rfl⟩ | ⟨hb, j, v, ha, -⟩ | ⟨-, j, v, -, rfl⟩ | ⟨hb, w, ha, hcmd⟩ := hostAccess_cases h
  · exact .inl ⟨rfl, rfl⟩
  · exact .inl ⟨rfl, rfl⟩
  · exact .inl ⟨rfl, rfl⟩
  · exact .inr (.inr ⟨hb, j, v, ha⟩)
  · exact .inl ⟨rfl, rfl⟩
  · obtain ⟨code, -, rfl⟩ | ⟨i, hi, hw, -⟩ | ⟨i, -, -, -, -, rfl⟩ := cmdWrite_cases (s := respond .done s) hb hcmd
    · exact .inl ⟨rfl, rfl⟩
    · exact .inr (.inl ⟨hb, w, ha, by simpa [hw] using hi⟩)
    · exact .inl ⟨rfl, rfl⟩

/-- A step that changes KV or KD is one of the rules of R29, or a reset (R225). -/
theorem step_schedule {s t : State} (h : step s = .next t)
    (hne : t.status.kv ≠ s.status.kv ∨ t.status.kd ≠ s.status.kd) :
    (s.status.busy = false ∧ ∃ (w : BusWord) (rest : List Turn), s.turns = .host (cmdAccess w) :: rest ∧
      (decode w = some .keyexpE ∨ decode w = some .keyexpD)) ∨
    (s.status.busy = true ∧ (s.pend = some .keyexpE ∨ s.pend = some .keyexpD) ∧
      (s.turns = [] ∨ ∃ rest, s.turns = .engine :: rest)) ∨
    (s.status.busy = false ∧ ∃ (j : Fin 8) (v : BusWord) (rest : List Turn), s.turns = .host (writeAt (4 * j.val) v) :: rest) ∨
    (∃ rest, s.turns = .reset :: rest) := by
  have hchanged : ¬(t.status.kv = s.status.kv ∧ t.status.kd = s.status.kd) := not_and_or.mpr hne
  by_cases hreset : ∃ rest, s.turns = .reset :: rest
  · exact .inr (.inr (.inr hreset))
  obtain ⟨hturn, he⟩ | ⟨a, rest, hturn, ha⟩ := step_cases_of_not_reset h (not_exists.mp hreset)
  · obtain ⟨hb, hp⟩ := (engineTurn_schedule he).resolve_left hchanged
    exact .inr (.inl ⟨hb, hp, hturn⟩)
  · obtain ⟨hb, w, rfl, hw⟩ | ⟨hb, j, v, rfl⟩ := (hostAccess_schedule ha).resolve_left hchanged
    · exact .inl ⟨hb, w, rest, hturn, hw⟩
    · exact .inr (.inr (.inl ⟨hb, j, v, rest, hturn⟩))

/-- KV = 0 ⇒ KD = 0 is kept by every effect, from every state (R37 item 2). -/
theorem Effect.keeps_noMode {s t : State} (he : Effect s t) (h : NoModeWithoutSchedule s) : NoModeWithoutSchedule t := by
  cases he with
  | keyWritten => exact fun _ => rfl
  | issuedKeyexp => exact fun _ => rfl
  | completedKeyexpE => exact fun hv => by simp at hv
  | completedKeyexpD => exact fun hv => by simp at hv
  | reset => exact fun _ => rfl
  | _ => simpa [NoModeWithoutSchedule] using h

/-- Settles O30: each rule of R29, that no other step changes KV or KD, and R37 item 2. -/
theorem scheduleFlagsChangeOnlyByTheirRules : Obligations.ScheduleFlagsChangeOnlyByTheirRules := by
  refine ⟨fun i s t hi hb h => ?issue, fun s t i hb hp hi h => ?completion, fun s t j v hb h => ?keyWrite,
    fun s t => step_schedule, fun s t h hinv => (step_effect h).keeps_noMode (s := turnTaken s) hinv⟩
  case issue =>
    obtain rfl := Host.Outcome.next.inj ((exec_keyexp hi hb).symm.trans h)
    exact ⟨rfl, rfl⟩
  case completion =>
    obtain rfl := eq_completion_of_engineTurn hb hp h
    exact completion_keyexp_flags hi s
  case keyWrite =>
    obtain rfl := Host.Outcome.next.inj ((hostAccess_write_key (by omega) (by omega) hb v).symm.trans h)
    exact ⟨rfl, rfl⟩

/-! ## OV -/

theorem completion_block_output {i : Instr} (hi : i = .enc ∨ i = .dec) (s : State) : (completion i s).status.ov = true := by
  rcases hi with rfl | rfl <;> simp [completion_enc, completion_dec]

theorem engineTurn_output {s t : State} (h : engineTurn s = .next t) :
    (t.dout = s.dout ∧ t.st = s.st ∧ t.status.ov = s.status.ov) ∨
    (s.status.busy = true ∧ t.status.busy = false ∧ (s.pend = some .enc ∨ s.pend = some .dec)) := by
  obtain ⟨-, rfl⟩ | ⟨hb, i, hp, rfl⟩ := engineTurn_cases h
  · exact .inl ⟨rfl, rfl, rfl⟩
  · obtain hi | hi := keyexp_or_block i
    · obtain ⟨hst, hdout, hov⟩ := completion_keyexp_output hi s
      exact .inl ⟨hdout, hst, hov⟩
    · exact .inr ⟨hb, completion_busy i s, by simpa [hp] using hi⟩

theorem hostAccess_ov {a : Access} {s t : State} (h : hostAccess a s = .next t) :
    t.status.ov = s.status.ov ∨
    (s.status.busy = false ∧ t.status.busy = true ∧ (t.pend = some .enc ∨ t.pend = some .dec)) := by
  obtain ⟨r, rfl⟩ | ⟨-, -, -, rfl⟩ | ⟨-, rfl⟩ | ⟨-, j, v, -, rfl⟩ | ⟨-, j, v, -, rfl⟩ | ⟨hb, w, -, hcmd⟩ := hostAccess_cases h
  · exact .inl rfl
  · exact .inl rfl
  · exact .inl rfl
  · exact .inl rfl
  · exact .inl rfl
  · obtain ⟨code, -, rfl⟩ | ⟨i, -, -, rfl⟩ | ⟨i, hi, -, -, -, rfl⟩ := cmdWrite_cases (s := respond .done s) hb hcmd
    · exact .inl rfl
    · exact .inl rfl
    · exact .inr ⟨hb, rfl, by simpa using hi⟩

theorem step_ov {s t : State} (h : step s = .next t) (hne : t.status.ov ≠ s.status.ov) :
    (s.status.busy = false ∧ t.status.busy = true ∧ (t.pend = some .enc ∨ t.pend = some .dec)) ∨
    (s.status.busy = true ∧ t.status.busy = false ∧ (s.pend = some .enc ∨ s.pend = some .dec)) ∨
    (∃ rest, s.turns = .reset :: rest) := by
  by_cases hreset : ∃ rest, s.turns = .reset :: rest
  · exact .inr (.inr hreset)
  obtain ⟨-, he⟩ | ⟨a, rest, -, ha⟩ := step_cases_of_not_reset h (not_exists.mp hreset)
  · exact .inr (.inl ((engineTurn_output he).resolve_left fun ⟨_, _, hov⟩ => hne hov))
  · exact .inl ((hostAccess_ov ha).resolve_left hne)

/-- Settles O31: OV at the issue, at the completion, and in every other step. -/
theorem outputFlagChangesOnlyByBlockCommands : Obligations.OutputFlagChangesOnlyByBlockCommands := by
  refine ⟨fun i s t hb h => ?issue, fun i s t hb hp h => ?completion, fun s t => step_ov⟩
  case issue =>
    obtain hi | hi := keyexp_or_block i
    · have hblock : ¬(i = .enc ∨ i = .dec) := by rcases hi with rfl | rfl <;> decide
      rw [if_neg fun hc => hblock hc.1]
      exact exec_keyexp_ov hi h
    · obtain ⟨hb', -⟩ | ⟨-, -, rfl⟩ | ⟨-, -, -, rfl⟩ | ⟨-, -, -, rfl⟩ := exec_block_cases hi h
      · simp [hb] at hb'
      · rw [if_neg (by simp [hb])]; rfl
      · rw [if_neg (by simp [hb])]; rfl
      · rw [if_pos ⟨hi, rfl⟩]; rfl
  case completion =>
    obtain rfl := eq_completion_of_engineTurn hb hp h
    obtain hi | hi := keyexp_or_block i
    · rw [if_neg (by rcases hi with rfl | rfl <;> decide)]
      exact (completion_keyexp_output hi s).2.2
    · rw [if_pos hi]
      exact completion_block_output hi s

/-! ## The data registers -/

/-- A host access leaves DOUT, ST and RK, and writes KEY and DIN where the host writes them while BUSY = 0 (R20 to R25). -/
theorem hostAccess_registers {a : Access} {s t : State} (h : hostAccess a s = .next t) :
    (t.dout = s.dout ∧ t.st = s.st ∧ t.rk = s.rk) ∧
    (t.key ≠ s.key → s.status.busy = false ∧ ∃ (j : Fin 8) (v : BusWord), a = writeAt (4 * j.val) v) ∧
    (t.din ≠ s.din → s.status.busy = false ∧ ∃ (j : Fin 4) (v : BusWord), a = writeAt (0x020 + 4 * j.val) v) := by
  obtain ⟨r, rfl⟩ | ⟨-, -, -, rfl⟩ | ⟨-, rfl⟩ | ⟨hb, j, v, ha, rfl⟩ | ⟨hb, j, v, ha, rfl⟩ | ⟨hb, w, -, hcmd⟩ := hostAccess_cases h
  · simp
  · simp
  · simp
  · exact ⟨by simp, fun _ => ⟨hb, j, v, ha⟩, fun hne => absurd (by simp) hne⟩
  · exact ⟨by simp, fun hne => absurd rfl hne, fun _ => ⟨hb, j, v, ha⟩⟩
  · obtain ⟨code, -, rfl⟩ | ⟨i, -, -, rfl⟩ | ⟨i, -, -, -, -, rfl⟩ := cmdWrite_cases (s := respond .done s) hb hcmd
    · simp
    · simp
    · simp

theorem engineTurn_rk {s t : State} (h : engineTurn s = .next t) :
    t.rk = s.rk ∨ (s.status.busy = true ∧ (s.pend = some .keyexpE ∨ s.pend = some .keyexpD)) := by
  obtain ⟨-, rfl⟩ | ⟨hb, i, hp, rfl⟩ := engineTurn_cases h
  · exact .inl rfl
  · obtain hi | hi := keyexp_or_block i
    · exact .inr ⟨hb, by simpa [hp] using hi⟩
    · exact .inl (completion_block_schedule hi s).1

theorem engineTurn_operands {s t : State} (h : engineTurn s = .next t) : t.key = s.key ∧ t.din = s.din := by
  obtain ⟨-, rfl⟩ | ⟨-, i, -, rfl⟩ := engineTurn_cases h
  · exact ⟨rfl, rfl⟩
  · exact ⟨completion_key i s, completion_din i s⟩

/-- Settles O32: KEY and DIN are the host's to write, DOUT, ST and RK the engine's. -/
theorem dataRegistersChangeOnlyByTheirRules : Obligations.DataRegistersChangeOnlyByTheirRules := by
  intro s t h hreset
  obtain ⟨hturn, he⟩ | ⟨a, rest, hturn, ha⟩ := step_cases_of_not_reset h hreset
  · obtain ⟨hkey, hdin⟩ := engineTurn_operands he
    refine ⟨fun hne => absurd hkey hne, fun hne => absurd hdin hne, fun hne => ?output, fun hne => ?schedule⟩
    case output =>
      obtain ⟨hb, -, hp⟩ := (engineTurn_output he).resolve_left fun ⟨hdout, hst, _⟩ => hne.elim (· hdout) (· hst)
      exact ⟨hb, hp, hturn⟩
    case schedule =>
      obtain ⟨hb, hp⟩ := (engineTurn_rk he).resolve_left hne
      exact ⟨hb, hp, hturn⟩
  · obtain ⟨⟨hdout, hst, hrk⟩, hkey, hdin⟩ := hostAccess_registers ha
    refine ⟨fun hne => ?key, fun hne => ?din, fun hne => (hne.elim (· hdout) (· hst)).elim, fun hne => absurd hrk hne⟩
    case key =>
      obtain ⟨hb, j, v, rfl⟩ := hkey hne
      exact ⟨hb, j, v, rest, hturn⟩
    case din =>
      obtain ⟨hb, j, v, rfl⟩ := hdin hne
      exact ⟨hb, j, v, rest, hturn⟩

/-- A step that neither completes the command in flight nor resets the core leaves DOUT and ST (R64). -/
theorem Effect.keeps_output {s t : State} (he : Effect s t) (hs : s.status.busy = true) (ht : t.status.busy = true) :
    t.dout = s.dout ∧ t.st = s.st := by
  cases he with
  | answered => exact ⟨rfl, rfl⟩
  | drawn => exact ⟨rfl, rfl⟩
  | dropped => exact ⟨rfl, rfl⟩
  | idle => exact ⟨rfl, rfl⟩
  | _ => simp_all

/-- Settles O33: what is left of the effects keeps the operands and the output. -/
theorem operandsAreFrozenWhileBusy : Obligations.OperandsAreFrozenWhileBusy := by
  intro s t hs h ht
  obtain ⟨hpend, hkey, hdin, hrk⟩ := (step_effect h).keeps_operands hs ht
  obtain ⟨hdout, hst⟩ := (step_effect h).keeps_output hs ht
  exact ⟨hkey, hdin, hrk, hpend, hdout, hst⟩

end Sys2Proof.Machine
end

section
/-!
PROOFS. A command in flight completes (O34, its bounded part), and the two outcomes of a DIN write beside a completion (O35).
-/

namespace Sys2Proof.Machine

open Sys2Proof

/-! ## Steps in a row -/

theorem stepsFrom_succ {s t : State} (h : step s = .next t) (n : Nat) : stepsFrom (n + 1) s = stepsFrom n t := by
  simp only [stepsFrom, h]

/-- The command `i` is in flight in `s`, on the operands of `r`. -/
structure InFlight (i : Instr) (r s : State) : Prop where
  /-- BUSY = 1. -/
  busy : s.status.busy = true
  /-- PEND is the command. -/
  pend : s.pend = some i
  /-- KEY is that of `r`. -/
  key : s.key = r.key
  /-- DIN is that of `r`. -/
  din : s.din = r.din
  /-- RK is that of `r`. -/
  rk : s.rk = r.rk

theorem inFlight_self {i : Instr} {s : State} (hb : s.status.busy = true) (hp : s.pend = some i) : InFlight i s s :=
  ⟨hb, hp, rfl, rfl, rfl⟩

/-- A host access leaves a command in flight (R56, R64). -/
theorem InFlight.hostAccess {i : Instr} {r s t : State} {a : Access} (h : InFlight i r s) (ha : hostAccess a s = .next t) :
    InFlight i r t := by
  have hbusy : t.status.busy = true := by
    obtain ⟨_, rfl⟩ | ⟨-, -, -, rfl⟩ | ⟨-, rfl⟩ | ⟨hb, -⟩ | ⟨hb, -⟩ | ⟨hb, -⟩ := hostAccess_cases ha
    · exact h.busy
    · exact h.busy
    · exact h.busy
    all_goals simp [h.busy] at hb
  obtain ⟨hpend, hkey, hdin, hrk⟩ := (hostAccess_effect ha).keeps_operands h.busy hbusy
  exact ⟨hbusy, hpend.trans h.pend, hkey.trans h.key, hdin.trans h.din, hrk.trans h.rk⟩

theorem InFlight.engineTurn {i : Instr} {r s : State} (h : InFlight i r s) : engineTurn s = .next (completion i s) :=
  engineTurn_busy h.busy h.pend

theorem InFlight.withTurns {i : Instr} {r s : State} (h : InFlight i r s) (ts : List Turn) :
    InFlight i r { s with turns := ts } := { h with }

/-- With no reset to come, a command in flight is completed by the first engine turn, or where the turns end. -/
theorem InFlight.completes {i : Instr} {r s : State} (h : InFlight i r s) (hreset : Turn.reset ∉ s.turns) :
    ∃ n u, n ≤ s.turns.length + 1 ∧ stepsFrom n s = some (completion i u) ∧ InFlight i r u := by
  generalize hturns : s.turns = ts at hreset
  induction ts generalizing s with
  | nil => exact ⟨1, s, Nat.le_refl 1, stepsFrom_succ ((step_of_turns_nil hturns).trans h.engineTurn) 0, h⟩
  | cons u rest ih =>
    have hstep := step_of_turns_cons hturns
    cases u with
    | engine =>
      have h' := h.withTurns rest
      exact ⟨1, _, by simp, stepsFrom_succ (hstep.trans h'.engineTurn) 0, h'⟩
    | host a =>
      obtain ⟨t, ha⟩ := hostAccess_next a { s with turns := rest }
      have hrest : t.turns = rest := by rw [step_turns (hstep.trans ha), hturns, List.tail_cons]
      obtain ⟨n, u, hn, hsteps, hu⟩ := ih ((h.withTurns rest).hostAccess ha) hrest fun hmem =>
        hreset (List.mem_cons_of_mem _ hmem)
      exact ⟨n + 1, u, Nat.succ_le_succ hn, (stepsFrom_succ (hstep.trans ha) n).trans hsteps, hu⟩
    | reset => exact absurd List.mem_cons_self hreset

/-- The result of a completed command is that of the operands it was in flight with (R153 to R156). -/
theorem InFlight.result {i : Instr} {r s : State} (h : InFlight i r s) :
    (i = .keyexpE → (completion i s).status.kv = true ∧ (completion i s).status.kd = false ∧
      (completion i s).rk = expandKey r.key false) ∧
    (i = .keyexpD → (completion i s).status.kv = true ∧ (completion i s).status.kd = true ∧
      (completion i s).rk = expandKey r.key true) ∧
    (i = .enc → (completion i s).status.ov = true ∧ (completion i s).dout = encryptBytes r.rk r.din) ∧
    (i = .dec → (completion i s).status.ov = true ∧ (completion i s).dout = decryptBytes r.rk r.din) := by
  refine ⟨?_, ?_, ?_, ?_⟩ <;> rintro rfl
  · simp [completion_keyexpE, h.key]
  · simp [completion_keyexpD, h.key]
  · simp [completion_enc, h.rk, h.din]
  · simp [completion_dec, h.rk, h.din]

/-! ## A DIN write beside a completion -/

theorem hostAccess_write_din_busy {s : State} (hb : s.status.busy = true) (j : Fin 4) (v : BusWord) :
    hostAccess (writeAt (0x020 + 4 * j.val) v) s = .next (recordError busyWrite (respond .done s)) :=
  busyWritesAreDropped s _ v hb (by omega) (by omega)

/-- Two turns, one after the other. -/
theorem stepsFrom_two {s u t : State} {a b : Turn} {rest : List Turn}
    (ha : takeTurn a { s with turns := b :: rest } = .next u) (hb : takeTurn b { u with turns := rest } = .next t) :
    stepsFrom 2 { s with turns := a :: b :: rest } = some t := by
  have hfirst : step { s with turns := a :: b :: rest } = .next u := (step_of_turns_cons rfl).trans ha
  have hsecond : step u = .next t := (step_of_turns_cons (step_turns hfirst)).trans hb
  rw [stepsFrom_succ hfirst, stepsFrom_succ hsecond, stepsFrom]

/-- Settles O35: the write is dropped before the completion, and stored after it. -/
theorem writeAndCompletionRaceEitherWay : Obligations.WriteAndCompletionRaceEitherWay := by
  intro s i j v rest hb hp
  constructor
  · have hdrop := hostAccess_write_din_busy (s := { s with turns := .engine :: rest }) hb j v
    have hcomplete := engineTurn_busy (s := { recordError busyWrite (respond .done s) with turns := rest }) hb hp
    refine ⟨_, stepsFrom_two hdrop hcomplete, ?_⟩
    simp [busyWrite]
  · have hcomplete := engineTurn_busy (s := { s with turns := .host (writeAt (0x020 + 4 * j.val) v) :: rest }) hb hp
    have hstore := fun u hidle => hostAccess_write_din (s := u) (k := 4 * j.val) (by omega) (by omega) hidle v
    refine ⟨_, stepsFrom_two hcomplete (hstore _ (completion_busy i _)), ?_⟩
    simp

end Sys2Proof.Machine
end

section
/-!
PROOFS. Completion and the end of a polling loop in fair runs (O34). Fairness is used through one lemma: what holds until a turn
is taken, and enables it, holds when it is taken (`WeaklyFair.exists_first`).
-/

namespace Sys2Proof.Machine

open Sys2Proof

/-! ## Fairness -/

/-- Where `P` enables the turn `t` and every other turn keeps `P`, `t` is taken in a state where `P` still holds. -/
theorem WeaklyFair.exists_first {σ τ : Type} {enabled : σ → Prop} {t : τ} {run : Nat → σ} {turn : Nat → τ}
    (hfair : WeaklyFair enabled t run turn) {P : σ → Prop} {n : Nat} (hn : P (run n)) (henabled : ∀ s, P s → enabled s)
    (hkeep : ∀ m, n ≤ m → turn m ≠ t → P (run m) → P (run (m + 1))) : ∃ m, n ≤ m ∧ turn m = t ∧ P (run m) := by
  by_contra hnone
  have hP : ∀ m, n ≤ m → P (run m) := by
    intro m hm
    induction m, hm using Nat.le_induction with
    | base => exact hn
    | succ m hm ih => exact hkeep m hm (fun ht => hnone ⟨m, hm, ht, ih⟩) ih
  obtain ⟨m, hm, ht⟩ := hfair n fun m hm => henabled _ (hP m hm)
  exact hnone ⟨m, hm, ht, hP m hm⟩

/-! ## A command in flight beside a host (R158) -/

/-- The host's step leaves a command in flight. -/
theorem HostSystem.step_keeps_inFlight {h h' : HostSystem} {i : Instr} {r : State} (hs : h.step .host = some h')
    (hin : InFlight i r h.core) : InFlight i r h'.core := by
  obtain ⟨⟨task, s⟩, hline, rfl⟩ := Option.map_eq_some_iff.mp hs
  obtain ⟨-, hsame | ⟨kind, off, answer, haccess⟩⟩ := HostTask.step_cases hline
  · exact hsame ▸ hin
  · exact hin.hostAccess (coreAccess_some haccess).1

theorem HostSystem.step_engine_core {h h' : HostSystem} (hs : h.step .engine = some h') :
    coreTurn .engine h.core = some h'.core := by
  obtain ⟨s, hcore, rfl⟩ := Option.map_eq_some_iff.mp hs
  exact hcore

/-- In a fair run with no reset to come, the engine completes the command in flight, on the operands it is in flight with. -/
theorem HostSystem.FairRun.completes {run : Nat → HostSystem} {turn : Nat → HostTurn} (hfair : HostSystem.FairRun run turn)
    {n : Nat} {i : Instr} {r : State} (hin : InFlight i r (run n).core) (hreset : ∀ m, n ≤ m → turn m ≠ .reset) :
    ∃ m, n ≤ m ∧ turn m = .engine ∧ InFlight i r (run m).core ∧ (run (m + 1)).core = completion i (run m).core := by
  have hkeep : ∀ m, n ≤ m → turn m ≠ .engine → InFlight i r (run m).core → InFlight i r (run (m + 1)).core := by
    intro m hm hne h
    have hhost : turn m = .host := by
      cases ht : turn m with
      | host => rfl
      | engine => exact absurd ht hne
      | reset => exact absurd ht (hreset m hm)
    exact HostSystem.step_keeps_inFlight (hhost ▸ hfair.isRun m) h
  obtain ⟨m, hm, hturn, hin'⟩ := hfair.engine.exists_first (P := fun h => InFlight i r h.core) hin (fun _ h => h.busy) hkeep
  refine ⟨m, hm, hturn, hin', ?_⟩
  have hcore := HostSystem.step_engine_core (hturn ▸ hfair.isRun m)
  exact Option.some.inj (hcore.symm.trans (coreTurn_engine_busy hin'.busy hin'.pend))

/-- After an engine's turn the core is idle: it was, or its command is completed. -/
theorem idle_of_coreTurn_engine {s t : State} (h : coreTurn .engine s = some t) : t.status.busy = false := by
  obtain ⟨hidle, he⟩ | ⟨-, i, -, he⟩ | ⟨-, -, he⟩ := coreTurn_engine_cases s
  · obtain rfl := Option.some.inj (he.symm.trans h)
    exact hidle
  · obtain rfl := Option.some.inj (he.symm.trans h)
    exact completion_busy i s
  · cases he.symm.trans h

/-- In a fair run the core is idle later, whether its command completes or a reset comes. -/
theorem HostSystem.FairRun.idle_later {run : Nat → HostSystem} {turn : Nat → HostTurn} (hfair : HostSystem.FairRun run turn)
    (n : Nat) : ∃ m, n ≤ m ∧ (run m).core.status.busy = false := by
  by_contra hnone
  have hbusy : ∀ m, n ≤ m → (run m).engineEnabled := fun m hm => by
    by_contra hidle
    exact hnone ⟨m, hm, by simpa [HostSystem.engineEnabled] using hidle⟩
  obtain ⟨m, hm, hturn⟩ := hfair.engine n hbusy
  exact hnone ⟨m + 1, by omega, idle_of_coreTurn_engine (HostSystem.step_engine_core (hturn ▸ hfair.isRun m))⟩

/-! ## A busy core beside others -/

theorem Platform.turn_cores_length {k : Nat} {t : Turn} {p q : Platform} (h : p.turn k t = some q) :
    q.cores.length = p.cores.length := by
  obtain ⟨c, s, -, -, rfl⟩ := Platform.turn_some h
  exact List.length_set

theorem Platform.access_cores_length {kind : AccessKind} {width addr : Nat} {p q : Platform}
    (h : p.access kind width addr = some q) : q.cores.length = p.cores.length := by
  obtain ⟨_, -, hturn⟩ := Option.bind_eq_some_iff.mp h
  exact Platform.turn_cores_length hturn

theorem platformAccess_cores_length {base : Nat} {kind : AccessKind} {off : Fin 512} {p q : Platform} {r : Response}
    (h : platformAccess base kind off p = some (r, q)) : q.cores.length = p.cores.length := by
  obtain ⟨q', haccess, hanswer⟩ := Option.bind_eq_some_iff.mp h
  obtain ⟨_, -, he⟩ := Option.map_eq_some_iff.mp hanswer
  obtain ⟨-, rfl⟩ := Prod.mk.inj he
  exact Platform.access_cores_length haccess

/-- No step takes a core off the platform. -/
theorem ParallelHost.step_cores_length {u : ParallelTurn} {h h' : ParallelHost} (hs : h.step u = some h') :
    h'.platform.cores.length = h.platform.cores.length := by
  cases u with
  | host k =>
    simp only [ParallelHost.step, ParallelHost.hostStep] at hs
    split at hs
    · cases hs
    · obtain ⟨⟨task, p⟩, hline, rfl⟩ := Option.map_eq_some_iff.mp hs
      obtain ⟨-, hsame | ⟨_, _, _, haccess⟩⟩ := HostTask.step_cases hline
      · exact congrArg (·.cores.length) hsame
      · exact platformAccess_cores_length haccess
  | engine k =>
    obtain ⟨p, hturn, rfl⟩ := Option.map_eq_some_iff.mp hs
    exact Platform.turn_cores_length hturn
  | reset k =>
    obtain ⟨p, hturn, rfl⟩ := Option.map_eq_some_iff.mp hs
    exact Platform.turn_cores_length hturn

theorem Platform.engineStep_idle {k : Nat} {p q : Platform} (h : p.engineStep k = some q) :
    ∃ d, q.cores[k]? = some d ∧ d.core.status.busy = false := by
  obtain ⟨c, s, hc, hs, rfl⟩ := Platform.turn_some h
  exact ⟨{ c with core := s }, by simp [(List.getElem?_eq_some_iff.mp hc).1], idle_of_coreTurn_engine hs⟩

/-- In a fair run of several cores, each core is idle later: otherwise its engine's turn would come. -/
theorem ParallelHost.FairRun.idle_later {run : Nat → ParallelHost} {turn : Nat → ParallelTurn}
    (hfair : ParallelHost.FairRun run turn) {n k : Nat} (hk : k < (run n).platform.cores.length) :
    ∃ m d, n ≤ m ∧ (run m).platform.cores[k]? = some d ∧ d.core.status.busy = false := by
  by_contra hnone
  have hthere : ∀ m, n ≤ m → k < (run m).platform.cores.length := by
    intro m hm
    induction m, hm using Nat.le_induction with
    | base => exact hk
    | succ m hm ih => rwa [ParallelHost.step_cores_length (hfair.isRun m)]
  have hbusy : ∀ m, n ≤ m → ParallelHost.engineEnabled k (run m) := fun m hm =>
    ⟨_, List.getElem?_eq_getElem (hthere m hm), by
      by_contra hidle
      exact hnone ⟨m, _, hm, List.getElem?_eq_getElem (hthere m hm), by simpa using hidle⟩⟩
  obtain ⟨m, hm, hturn⟩ := hfair.engine k n hbusy
  have hstep := hfair.isRun m
  rw [hturn] at hstep
  obtain ⟨p, hengine, hrun⟩ := Option.map_eq_some_iff.mp hstep
  obtain ⟨d, hd, hidle⟩ := Platform.engineStep_idle hengine
  exact hnone ⟨m + 1, d, by omega, hrun ▸ hd, hidle⟩

/-! ## The lines of a `WAIT` (R77) -/

section
variable {t : HostTask} {k : Nat} {w : String} (hw : WaitAt t.program k w) (s : State)
include hw

theorem WaitAt.step_label (hpos : t.position = k) : t.step coreAccess s = some (t.advance, s) := by
  simp only [HostTask.step, hpos, hw.lines.1]

theorem WaitAt.step_read (hpos : t.position = k + 1) : t.step coreAccess s =
    some (t.received "s" (.data s.status.word), respond (.data s.status.word) s) := by
  simp only [HostTask.step, hpos, hw.lines.2.1, coreAccess_status, Option.map_some]

/-- The branch goes back to the label while bit 0 of the word read is 1, and on when it is 0. -/
theorem WaitAt.step_branch (hpos : t.position = k + 2) {v : BusWord} (hv : nameValue t.names "s" = some v) :
    t.step coreAccess s = some (if v.getLsbD 0 = true then { t with position := k } else t.advance, s) := by
  have hbranch : t.branch "s" 0x1 w = some (if v.getLsbD 0 = true then { t with position := k } else t.advance) := by
    simp only [HostTask.branch, hv, and_one_ne_zero, hw.2, Option.map_some]
    split <;> rfl
  simp only [HostTask.step, hpos, hw.lines.2.2, hbranch, Option.map_some]

end

/-- The host stands in the `WAIT` at `k`; at its branch, a word has been read into s. -/
structure InWait (k : Nat) (w : String) (t : HostTask) : Prop where
  /-- The program has the `WAIT` there. -/
  wait : WaitAt t.program k w
  /-- The line is one of its three. -/
  line : t.position = k ∨ t.position = k + 1 ∨ t.position = k + 2 ∧ ∃ v, nameValue t.names "s" = some v

/-- The host has come past the `WAIT` at `k`, with a word in s whose BUSY bit is 0. -/
def PastWait (k : Nat) (t : HostTask) : Prop :=
  t.position = k + 3 ∧ ∃ v, nameValue t.names "s" = some v ∧ v.getLsbD 0 = false

/-- A line of a `WAIT` has a step; it stays in the `WAIT` or comes past it, and leaves STATUS. -/
theorem InWait.step {k : Nat} {w : String} {t : HostTask} (h : InWait k w t) (s : State) :
    ∃ t' s', t.step coreAccess s = some (t', s') ∧ s'.status = s.status ∧ (InWait k w t' ∨ PastWait k t') := by
  obtain ⟨hw, hpos | hpos | ⟨hpos, v, hv⟩⟩ := h
  · exact ⟨_, _, hw.step_label s hpos, rfl, .inl ⟨hw, .inr (.inl (congrArg (· + 1) hpos))⟩⟩
  · exact ⟨_, _, hw.step_read s hpos, rfl,
      .inl ⟨hw, .inr (.inr ⟨congrArg (· + 1) hpos, _, nameValue_bindName _ _ _⟩)⟩⟩
  · refine ⟨_, _, hw.step_branch s hpos hv, rfl, ?_⟩
    split
    · exact .inl ⟨hw, .inl rfl⟩
    · next hbit => exact .inr ⟨congrArg (· + 1) hpos, v, hv, by simpa using hbit⟩

/-! ## A polling loop in a fair run (R158) -/

/-- The host's step is its task's next line. -/
theorem HostSystem.hostStep_eq {h : HostSystem} {t : HostTask} {s : State} (hline : h.task.step coreAccess h.core = some (t, s)) :
    h.hostStep = some ⟨t, s⟩ := by
  simp [HostSystem.hostStep, hline]

/-- Every step stays in the `WAIT` or comes past it, and leaves an idle core idle. -/
theorem HostSystem.step_inWait {h h' : HostSystem} {u : HostTurn} {k : Nat} {w : String} (hs : h.step u = some h')
    (hin : InWait k w h.task) : (InWait k w h'.task ∨ PastWait k h'.task) ∧
      (h.core.status.busy = false → h'.core.status.busy = false) := by
  obtain ⟨-, hline⟩ | ⟨-, htask, hcore⟩ | ⟨-, htask, hcore⟩ := HostSystem.step_cases hs
  · obtain ⟨t, s, ht, hstatus, hnext⟩ := hin.step h.core
    obtain ⟨rfl, rfl⟩ := Prod.mk.inj (Option.some.inj (ht.symm.trans hline))
    exact ⟨hnext, fun hidle => hstatus ▸ hidle⟩
  · exact ⟨.inl (htask ▸ hin), fun _ => idle_of_coreTurn_engine hcore⟩
  · exact ⟨.inl (htask ▸ hin), fun _ => hcore ▸ rfl⟩

section
variable {run : Nat → HostSystem} {turn : Nat → HostTurn} (hfair : HostSystem.FairRun run turn)
include hfair

/-- The line that a host in a `WAIT` stands at is taken. -/
theorem HostSystem.FairRun.next_line {n k : Nat} {w : String} (hin : InWait k w (run n).task) :
    ∃ m, n ≤ m ∧ (run n).task.step coreAccess (run m).core = some ((run (m + 1)).task, (run (m + 1)).core) := by
  have henabled : ∀ h : HostSystem, h.task = (run n).task → h.hostEnabled := by
    intro h ht
    obtain ⟨t, s, hline, -⟩ := hin.step h.core
    rw [HostSystem.hostEnabled, HostSystem.hostStep_eq (ht ▸ hline)]
    rfl
  have hkeep : ∀ m, n ≤ m → turn m ≠ .host → (run m).task = (run n).task → (run (m + 1)).task = (run n).task := by
    intro m _ hne ht
    obtain ⟨hhost, -⟩ | ⟨-, htask, -⟩ | ⟨-, htask, -⟩ := HostSystem.step_cases (hfair.isRun m)
    · exact absurd hhost hne
    · exact htask.trans ht
    · exact htask.trans ht
  obtain ⟨m, hm, hturn, ht⟩ := hfair.host.exists_first (P := fun h => h.task = (run n).task) rfl henabled hkeep
  obtain ⟨-, hline⟩ | ⟨hengine, -⟩ | ⟨hreset, -⟩ := HostSystem.step_cases (hfair.isRun m)
  · exact ⟨m, hm, ht ▸ hline⟩
  · simp [hturn] at hengine
  · simp [hturn] at hreset

/-- From the label the host comes to the read. -/
theorem HostSystem.FairRun.after_label {n k : Nat} {w : String} (hw : WaitAt (run n).task.program k w)
    (hpos : (run n).task.position = k) : ∃ m, n ≤ m ∧ (run m).task.position = k + 1 := by
  obtain ⟨m, hm, hline⟩ := hfair.next_line ⟨hw, .inl hpos⟩
  rw [hw.step_label _ hpos] at hline
  obtain ⟨htask, -⟩ := Prod.mk.inj (Option.some.inj hline)
  exact ⟨m + 1, by omega, htask ▸ congrArg (· + 1) hpos⟩

/-- From the read the host comes to the branch, with the STATUS of some later state in s. -/
theorem HostSystem.FairRun.after_read {n k : Nat} {w : String} (hw : WaitAt (run n).task.program k w)
    (hpos : (run n).task.position = k + 1) : ∃ m, n ≤ m ∧ (run (m + 1)).task.position = k + 2 ∧
      nameValue (run (m + 1)).task.names "s" = some (run m).core.status.word := by
  obtain ⟨m, hm, hline⟩ := hfair.next_line ⟨hw, .inr (.inl hpos)⟩
  rw [hw.step_read _ hpos] at hline
  obtain ⟨htask, -⟩ := Prod.mk.inj (Option.some.inj hline)
  exact ⟨m, hm, htask ▸ congrArg (· + 1) hpos, htask ▸ nameValue_bindName _ _ _⟩

/-- From the branch the host goes back to the label or comes past the `WAIT`. -/
theorem HostSystem.FairRun.after_branch {n k : Nat} {w : String} {v : BusWord} (hw : WaitAt (run n).task.program k w)
    (hpos : (run n).task.position = k + 2) (hv : nameValue (run n).task.names "s" = some v) :
    ∃ m, n ≤ m ∧ if v.getLsbD 0 = true then (run m).task.position = k else PastWait k (run m).task := by
  obtain ⟨m, hm, hline⟩ := hfair.next_line ⟨hw, .inr (.inr ⟨hpos, v, hv⟩)⟩
  rw [hw.step_branch _ hpos hv] at hline
  obtain ⟨htask, -⟩ := Prod.mk.inj (Option.some.inj hline)
  refine ⟨m + 1, by omega, ?_⟩
  split
  · next hbit => rw [← htask, if_pos hbit]
  · next hbit =>
    rw [← htask, if_neg hbit]
    exact ⟨congrArg (· + 1) hpos, v, hv, by simpa using hbit⟩

/-- A host that never comes past its `WAIT` would read STATUS on an idle core at last, and the branch after that read goes on. -/
theorem HostSystem.FairRun.past_wait {n k : Nat} {w : String} (hstart : InWait k w (run n).task) :
    ∃ m, n ≤ m ∧ PastWait k (run m).task := by
  by_contra hnone
  have hin : ∀ m, n ≤ m → InWait k w (run m).task := by
    intro m hm
    induction m, hm using Nat.le_induction with
    | base => exact hstart
    | succ m hm ih =>
      exact (HostSystem.step_inWait (hfair.isRun m) ih).1.resolve_right fun hpast => hnone ⟨m + 1, by omega, hpast⟩
  obtain ⟨n₁, hn₁, hidle₁⟩ := hfair.idle_later n
  have hidle : ∀ m, n₁ ≤ m → (run m).core.status.busy = false := by
    intro m hm
    induction m, hm using Nat.le_induction with
    | base => exact hidle₁
    | succ m hm ih => exact (HostSystem.step_inWait (hfair.isRun m) (hin m (by omega))).2 ih
  have noRead : ∀ m, n₁ ≤ m → (run m).task.position ≠ k + 1 := by
    intro m hm hpos
    obtain ⟨l, hl, hpos', hv⟩ := hfair.after_read (hin m (by omega)).wait hpos
    obtain ⟨j, hj, hnext⟩ := hfair.after_branch (hin (l + 1) (by omega)).wait hpos' hv
    rw [Status.word_bit_zero, hidle l (by omega), if_neg Bool.false_ne_true] at hnext
    exact hnone ⟨j, by omega, hnext⟩
  have noLabel : ∀ m, n₁ ≤ m → (run m).task.position ≠ k := by
    intro m hm hpos
    obtain ⟨l, hl, hpos'⟩ := hfair.after_label (hin m (by omega)).wait hpos
    exact noRead l (by omega) hpos'
  obtain ⟨hw, hpos | hpos | ⟨hpos, v, hv⟩⟩ := hin n₁ hn₁
  · exact noLabel n₁ (Nat.le_refl n₁) hpos
  · exact noRead n₁ (Nat.le_refl n₁) hpos
  · obtain ⟨m, hm, hnext⟩ := hfair.after_branch hw hpos hv
    split at hnext
    · exact noLabel m hm hnext
    · exact hnone ⟨m, by omega, hnext⟩

end

/-- Settles O34: the bounded completion, the two completions in fair runs, and the end of the polling loop. -/
theorem acceptedCommandsComplete : Obligations.AcceptedCommandsComplete := by
  refine ⟨fun s i hb hp hreset => ?bounded, fun run turn n i hfair hb hp hreset => ?fair,
    fun run turn n k c hfair hc _ => hfair.idle_later (List.getElem?_eq_some_iff.mp hc).1,
    fun run turn n k w hfair hw hpos => ?polling⟩
  case bounded =>
    obtain ⟨n, u, hn, hsteps, hu⟩ := (inFlight_self hb hp).completes hreset
    exact ⟨n, _, hn, hsteps, completion_busy i u, completion_pend i u, (completion_key i u).trans hu.key,
      (completion_din i u).trans hu.din, hu.result⟩
  case fair =>
    obtain ⟨m, hm, hturn, hin, hcore⟩ := hfair.completes (inFlight_self hb hp) hreset
    exact ⟨m, hm, hturn, hin.key, hin.din, hin.rk, hcore⟩
  case polling =>
    obtain ⟨m, hm, hpast, v, hv, hbit⟩ := hfair.past_wait ⟨hw, .inl hpos⟩
    exact ⟨m, v, hm, hpast, hv, hbit⟩

end Sys2Proof.Machine
end

section
/-!
PROOFS. The pipelines as bijections (O55). Every schedule is the prepared inverse of one, so what is known of a schedule and its
prepared inverse (O56) serves the two pipelines alike.
-/

namespace Sys2Proof.Machine

open Sys2Proof

/-- MixColumns on the round keys 1 to 13: what undoes `prepareInverse`. -/
def unprepareInverse (dk : Schedule) : Schedule :=
  Vector.ofFn fun i => if 1 ≤ i.val ∧ i.val ≤ 13 then mixColumns (dk.get i) else dk.get i

theorem unprepareInverse_get (dk : Schedule) (i : Fin 15) :
    (unprepareInverse dk).get i = if 1 ≤ i.val ∧ i.val ≤ 13 then mixColumns (dk.get i) else dk.get i :=
  ofFn_get _ i

theorem prepareInverse_unprepareInverse (dk : Schedule) : prepareInverse (unprepareInverse dk) = dk := by
  refine Vector.ext fun i hi => ?_
  have hget : (prepareInverse (unprepareInverse dk)).get ⟨i, hi⟩ = dk.get ⟨i, hi⟩ := by
    rw [prepareInverse_get, unprepareInverse_get]
    split
    · exact invMixColumns_mixColumns _
    · rfl
  exact hget

/-- Settles O55: each pipeline has the other, under the schedule of the other mode, as its inverse. -/
theorem pipelinesAreBijections : Obligations.PipelinesAreBijections := by
  intro rk
  constructor
  · exact Function.bijective_iff_has_inverse.mpr
      ⟨fun m => decryptBlock m (prepareInverse rk), decryptBlock_encryptBlock rk, encryptBlock_decryptBlock rk⟩
  · have hdecrypt := decryptBlock_encryptBlock (unprepareInverse rk)
    have hencrypt := encryptBlock_decryptBlock (unprepareInverse rk)
    rw [prepareInverse_unprepareInverse] at hdecrypt hencrypt
    exact Function.bijective_iff_has_inverse.mpr ⟨fun m => encryptBlock m (unprepareInverse rk), hencrypt, hdecrypt⟩

end Sys2Proof.Machine
end

section
/-!
PROOFS. How long the host's two streams are (O58): sixteen bytes for each stride of the padded input.
-/

namespace Sys2Proof.Machine

open Sys2Proof

theorem length_strides (q : List Byte) : (strides q).length = q.length / 16 := by simp [strides]

/-- Sixteen bytes for each block. -/
theorem length_flatMap_toList (f : Bytes 16 → Bytes 16) (bs : List (Bytes 16)) :
    (bs.flatMap fun b => (f b).toList).length = 16 * bs.length := by
  simp [List.length_flatMap, Nat.mul_comm]

theorem length_encryptBlockStream (p : List Byte) (key : Bytes 32) :
    (encryptBlockStream p key).length = 16 * ((p.length + (p.length % 16 + 16)) / 16) := by
  rw [encryptBlockStream, length_flatMap_toList, length_strides, length_padForEncryption]

theorem length_decryptBlockStream (c : List Byte) (key : Bytes 32) :
    (decryptBlockStream c key).length = 16 * ((c.length + c.length % 16) / 16) := by
  rw [decryptBlockStream, length_flatMap_toList, length_strides, padForDecryption, List.length_append, List.length_replicate]

/-- Settles O58: the padded length, in whole blocks. -/
theorem streamLengths : Obligations.StreamLengths := by
  intro p key k r hp hr
  rw [length_encryptBlockStream, length_decryptBlockStream, hp]
  constructor <;> split <;> omega

end Sys2Proof.Machine
end

section
/-!
PROOFS. Several cores on one platform (O60): a core's turn is its own, and two engines' turns commute, since neither draws.
-/

namespace Sys2Proof.Machine

open Sys2Proof

/-- A core of a platform after its engine's turn, its draws numbered from `n` on. `none` where the core stops. -/
def CoreInstance.engineTurn (n : Nat) (c : CoreInstance) : Option CoreInstance :=
  (coreTurn .engine { c.core with draws := n }).map fun s => { c with core := s }

theorem coreTurn_engine_draws {s t : State} (h : coreTurn .engine s = some t) : t.draws = s.draws := by
  obtain ⟨-, he⟩ | ⟨-, i, -, he⟩ | ⟨-, -, he⟩ := coreTurn_engine_cases s
  · obtain rfl := Option.some.inj (he.symm.trans h)
    rfl
  · obtain rfl := Option.some.inj (he.symm.trans h)
    exact completion_draws i s
  · cases he.symm.trans h

/-- An engine's turn changes its core alone, and makes no draw. -/
theorem Platform.engineStep_eq (k : Nat) (p : Platform) : p.engineStep k =
    (p.cores[k]?.bind (CoreInstance.engineTurn p.draws)).map fun c => { p with cores := p.cores.set k c } := by
  unfold Platform.engineStep Platform.turn CoreInstance.engineTurn
  cases p.cores[k]? with
  | none => rfl
  | some c =>
    cases hs : coreTurn .engine { c.core with draws := p.draws } with
    | none => simp [hs]
    | some s => simp [hs, coreTurn_engine_draws hs]

/-- Core `k`'s engine, after core `j`'s: both cores are changed, each as if it were alone. -/
theorem Platform.engineStep_engineStep {j k : Nat} (hjk : j ≠ k) (p : Platform) :
    (p.engineStep j).bind (Platform.engineStep k) =
      (p.cores[j]?.bind (CoreInstance.engineTurn p.draws)).bind fun c =>
        (p.cores[k]?.bind (CoreInstance.engineTurn p.draws)).map fun d =>
          { p with cores := (p.cores.set j c).set k d } := by
  rw [Platform.engineStep_eq, Option.bind_map]
  congr 1
  funext c
  simp [Platform.engineStep_eq, List.getElem?_set_ne hjk]

theorem Platform.engineStep_comm {j k : Nat} (hjk : j ≠ k) (p : Platform) :
    (p.engineStep j).bind (Platform.engineStep k) = (p.engineStep k).bind (Platform.engineStep j) := by
  rw [Platform.engineStep_engineStep hjk, Platform.engineStep_engineStep hjk.symm]
  cases p.cores[j]?.bind (CoreInstance.engineTurn p.draws) with
  | none => cases p.cores[k]?.bind (CoreInstance.engineTurn p.draws) <;> rfl
  | some c =>
    cases p.cores[k]?.bind (CoreInstance.engineTurn p.draws) with
    | none => rfl
    | some d => simp [List.set_comm c d hjk]

theorem Platform.afterReset_core {bases : List Nat} {k : Nat} {c : CoreInstance}
    (h : (Platform.afterReset bases).cores[k]? = some c) :
    k < bases.length ∧ c.core = State.resetFrom (resetDraws * k) := by
  simp only [Platform.afterReset, List.getElem?_mapIdx] at h
  obtain ⟨base, hbase, rfl⟩ := Option.map_eq_some_iff.mp h
  exact ⟨(List.getElem?_eq_some_iff.mp hbase).1, rfl⟩

/-- Settles O60: the windows are apart, each turn is its core's own, and core k has the draws from 272 k on. -/
theorem instancesShareNothing : Obligations.InstancesShareNothing := by
  refine ⟨fun p k c kind o width hwf hc ho => ?access, fun p k c i hc hb hp => ?engine, fun p k c hc => ?reset,
    fun p q k t h j hj => Platform.turn_other h hj, fun p j k hjk => Platform.engineStep_comm hjk p,
    fun bases => ⟨fun k a => resetDraws * k + a.val, fun j k a b h => ?apart, fun k c hc => ?drawn⟩⟩
  case access =>
    obtain ⟨halign, hbases⟩ := p.wellFormed_iff.mp hwf
    obtain ⟨t, -, ht⟩ := coreTurn_host ⟨kind, windowOffset o, width⟩ { c.core with draws := p.draws }
    refine ⟨t, ht, ?_⟩
    rw [Platform.access, coreAt_window halign hbases hc ho]
    exact Platform.turn_eq hc ht
  case engine =>
    have hturn := coreTurn_engine_busy (s := { c.core with draws := p.draws }) hb hp
    rw [Platform.engineStep, Platform.turn_eq hc hturn, completion_draws]
  case reset => exact Platform.turn_eq hc (coreTurn_reset _)
  case apart =>
    have hnumber : 272 * j + a.val = 272 * k + b.val := h
    exact ⟨by omega, by omega⟩
  case drawn =>
    obtain ⟨hk, hcore⟩ := Platform.afterReset_core hc
    refine ⟨hcore ▸ unspecifiedBytesAre_resetFrom _, fun a => ?_⟩
    have hlast : 272 * k + a.val < 272 * bases.length := by omega
    exact hlast

end Sys2Proof.Machine
end
